-- ==== Sys2Proof/Word.lean ====
section
/-! DEFINITION. The words of the unit: the 64-bit command and response words, bytes, and 24-bit colours. -/

namespace Sys2Proof

/-- One command word or one response word (30_encoding.md R70, R72); bit 0 is the least significant (R7). -/
abbrev Word := BitVec 64

/-- One byte of a buffer, or one colour channel, 0 to 255 (00_scope.md R4). -/
abbrev Byte := BitVec 8

/-- One colour: three 8-bit channels in the order R, G, B (00_scope.md R4; 10_state.md R23). -/
structure Rgb where
  r : Byte
  g : Byte
  b : Byte
deriving DecidableEq, Repr, Inhabited

end Sys2Proof
end

