-- ==== Sys2Proof/Syntax.lean ====
section
/-! DEFINITION. The 33 commands of 30_encoding.md R75, one constructor per row, operands in the order of R79.
What the spec treats as bits is a bit vector; what it treats as a number is a number, whose range is checked in
WellFormed.lean (R74). -/

namespace Sys2Proof

/-- One command of the unit (30_encoding.md R75). -/
inductive Instr where
  /-- SRST (R210). -/
  | srst
  /-- CSR.RD n: register number n (R211). -/
  | csrRd (n : Nat)
  /-- MODE.SET v: ncValue v (R101). -/
  | modeSet (v : Nat)
  /-- MODE.BYNC v: ncValue v (R102). -/
  | modeByNc (v : Nat)
  /-- MODE.BYCC v: colour count v (R103). -/
  | modeByCc (v : Nat)
  /-- PAL.COLOR i: palette index i (R111). -/
  | palColor (i : Nat)
  /-- PAL.LDROM (R112). -/
  | palLdRom
  /-- PAL.LDEMB (R113). -/
  | palLdEmb
  /-- PAL.LDBOOT (R114). -/
  | palLdBoot
  /-- PAL.GET i: index i of the working palette (R115). -/
  | palGet (i : Nat)
  /-- PAL.EXPAND (R116). -/
  | palExpand
  /-- EMB.CLR (R151). -/
  | embClr
  /-- EMB.PUT b: byte b (R152). -/
  | embPut (b : Byte)
  /-- EMB.GET i: byte index i (R153). -/
  | embGet (i : Nat)
  /-- EMB.ENC (R154). -/
  | embEnc
  /-- EMB.ENCW (R155). -/
  | embEncW
  /-- EMB.DEC (R156). -/
  | embDec
  /-- EMB.DECM (R157). -/
  | embDecM
  /-- CLS.IDX r, g, b: the channels of a colour (R130). -/
  | clsIdx (r g b : Byte)
  /-- NC.ENC nc: a 3-bit ncValue (R141). -/
  | ncEnc (nc : BitVec 3)
  /-- NC.DEC cnt, i0, i1, i2: index count and three bootstrap indices (R142). -/
  | ncDec (cnt i0 i1 i2 : Nat)
  /-- MASK.VAL ref, m, x, y: mask reference, signed modulus, coordinates (R172). -/
  | maskVal (ref : BitVec 3) (m : Int) (x y : Nat)
  /-- MASK.ADD ref, m, x, y, idx: as MASK.VAL, and a colour index (R173). -/
  | maskAdd (ref : BitVec 3) (m : Int) (x y idx : Nat)
  /-- MASK.SUB ref, m, x, y, idx: as MASK.ADD (R174). -/
  | maskSub (ref : BitVec 3) (m : Int) (x y idx : Nat)
  /-- PK.RST (R191). -/
  | pkRst
  /-- PK.WRITE v, w: value v, signed bit width w (R192). -/
  | pkWrite (v : BitVec 32) (w : Int)
  /-- PK.ALIGN (R193). -/
  | pkAlign
  /-- PK.GET i: byte index i (R194). -/
  | pkGet (i : Nat)
  /-- UP.RST (R196). -/
  | upRst
  /-- UP.PUT b: byte b (R197). -/
  | upPut (b : Byte)
  /-- UP.READ n: signed bit count n (R198). -/
  | upRead (n : Int)
  /-- UP.MORE (R199). -/
  | upMore
  /-- UP.REW (R200). -/
  | upRew
deriving DecidableEq, Repr

end Sys2Proof
end

