-- ==== Sys2Proof/WellFormed.lean ====
section
/-! DEFINITION. When a command can be written in a command word: every operand lies in the range its field expresses
(30_encoding.md R71, R74). Which operands a command accepts is the command's own affair (R223), not a matter of form. -/

namespace Sys2Proof

/-- An unsigned operand of the 32-bit field a (R74). -/
def fitsA (v : Nat) : Bool := decide (v < 2 ^ 32)

/-- An unsigned operand of the 8-bit field f, or of bits 7 to 0 of a (R74). -/
def fitsByte (v : Nat) : Bool := decide (v < 2 ^ 8)

/-- A signed operand of the 8-bit field f: -128 to 127 (R74). -/
def fitsWidth (w : Int) : Bool := decide (-128 ≤ w ∧ w ≤ 127)

/-- A signed operand of the 16-bit field c: -32768 to 32767 (R74). -/
def fitsModulus (m : Int) : Bool := decide (-32768 ≤ m ∧ m ≤ 32767)

/-- A mask coordinate: 12 bits, 0 to 4095 (R74). -/
def fitsCoord (x : Nat) : Bool := decide (x < 2 ^ 12)

/-- A bootstrap index of NC.DEC: 2 bits, 0 to 3 (R74). -/
def fitsBootIndex (i : Nat) : Bool := decide (i < 2 ^ 2)

/-- The command's operands fit their fields (R71, R74). -/
def Instr.wf : Instr → Bool
  | .csrRd n => fitsByte n
  | .modeSet v => fitsA v
  | .modeByNc v => fitsA v
  | .modeByCc v => fitsA v
  | .palColor i => fitsA i
  | .palGet i => fitsA i
  | .embGet i => fitsA i
  | .pkGet i => fitsA i
  | .ncDec cnt i0 i1 i2 => fitsByte cnt && fitsBootIndex i0 && fitsBootIndex i1 && fitsBootIndex i2
  | .maskVal _ m x y => fitsModulus m && fitsCoord x && fitsCoord y
  | .maskAdd _ m x y idx => fitsModulus m && fitsCoord x && fitsCoord y && fitsByte idx
  | .maskSub _ m x y idx => fitsModulus m && fitsCoord x && fitsCoord y && fitsByte idx
  | .pkWrite _ w => fitsWidth w
  | .upRead n => fitsWidth n
  | .srst => true
  | .palLdRom => true
  | .palLdEmb => true
  | .palLdBoot => true
  | .palExpand => true
  | .embClr => true
  | .embPut _ => true
  | .embEnc => true
  | .embEncW => true
  | .embDec => true
  | .embDecM => true
  | .clsIdx _ _ _ => true
  | .ncEnc _ => true
  | .pkRst => true
  | .pkAlign => true
  | .upRst => true
  | .upPut _ => true
  | .upMore => true
  | .upRew => true

end Sys2Proof
end

