-- ==== Sys2Proof/Decode.lean ====
section
/-! DEFINITION. The decoder and the encoder of command words (30_encoding.md R70 to R76). The decoder is total on
64-bit words: it answers a command or rejects by name; the unit's answer to a rejected word is IllegalCommand (R76). -/

namespace Sys2Proof

/-- Why a word is no command (R76). -/
inductive DecodeReject where
  /-- The field op is none of the 33 opcodes of R75. -/
  | unknownOpcode
  /-- The field op is an opcode, but a bit that its format reserves is not zero. -/
  | reservedBits
deriving DecidableEq, Repr

/-! ## Fields and operands of a word -/

/-- Field op, bits 63 to 56 (R70). -/
def fieldOp (w : Word) : BitVec 8 := w.extractLsb 63 56
/-- Field f, bits 55 to 48 (R70). -/
def fieldF (w : Word) : BitVec 8 := w.extractLsb 55 48
/-- Field c, bits 47 to 32 (R70). -/
def fieldC (w : Word) : BitVec 16 := w.extractLsb 47 32
/-- Field a, bits 31 to 0 (R70). -/
def fieldA (w : Word) : BitVec 32 := w.extractLsb 31 0

/-- Bit width of PK.WRITE and bit count of UP.READ: field f as a signed number, sext_8 (R74). -/
def widthOperand (w : Word) : Int := (fieldF w).toInt
/-- Mask modulus: field c as a signed number, sext_16 (R74). -/
def modulusOperand (w : Word) : Int := (fieldC w).toInt
/-- Mask reference: f[2:0] (R74). -/
def refOperand (w : Word) : BitVec 3 := (fieldF w).extractLsb 2 0
/-- Mask coordinate x: a[31:20] (R74). -/
def xOperand (w : Word) : Nat := ((fieldA w).extractLsb 31 20).toNat
/-- Mask coordinate y: a[19:8] (R74). -/
def yOperand (w : Word) : Nat := ((fieldA w).extractLsb 19 8).toNat
/-- A byte, a colour index, or the blue channel: a[7:0] (R74). -/
def byteOperand (w : Word) : Byte := (fieldA w).extractLsb 7 0
/-- Red channel of CLS.IDX: a[23:16] (R74). -/
def redOperand (w : Word) : Byte := (fieldA w).extractLsb 23 16
/-- Green channel of CLS.IDX: a[15:8] (R74). -/
def greenOperand (w : Word) : Byte := (fieldA w).extractLsb 15 8
/-- ncValue of NC.ENC: a[2:0] (R74). -/
def ncOperand (w : Word) : BitVec 3 := (fieldA w).extractLsb 2 0
/-- Bootstrap index i0 of NC.DEC: a[5:4] (R74). -/
def index0Operand (w : Word) : Nat := ((fieldA w).extractLsb 5 4).toNat
/-- Bootstrap index i1 of NC.DEC: a[3:2] (R74). -/
def index1Operand (w : Word) : Nat := ((fieldA w).extractLsb 3 2).toNat
/-- Bootstrap index i2 of NC.DEC: a[1:0] (R74). -/
def index2Operand (w : Word) : Nat := ((fieldA w).extractLsb 1 0).toNat

/-! ## The opcode map -/

/-- One row of the opcode map (R75): its opcode, its match and mask words, and the command of a word that fits it. -/
structure Row where
  op : BitVec 8
  fixed : Word
  mask : Word
  build : Word → Instr

/-- System commands (R75). -/
def systemRows : List Row :=
  [{ op := 0x01, fixed := 0x0100000000000000, mask := 0xFFFFFFFFFFFFFFFF,
     build := fun _ => .srst },
   { op := 0x02, fixed := 0x0200000000000000, mask := 0xFF00FFFFFFFFFFFF,
     build := fun w => .csrRd (fieldF w).toNat }]

/-- ColorMode registry commands (R75). -/
def modeRows : List Row :=
  [{ op := 0x10, fixed := 0x1000000000000000, mask := 0xFFFFFFFF00000000,
     build := fun w => .modeSet (fieldA w).toNat },
   { op := 0x11, fixed := 0x1100000000000000, mask := 0xFFFFFFFF00000000,
     build := fun w => .modeByNc (fieldA w).toNat },
   { op := 0x12, fixed := 0x1200000000000000, mask := 0xFFFFFFFF00000000,
     build := fun w => .modeByCc (fieldA w).toNat }]

/-- Palette ROM and interpolator commands (R75). -/
def paletteRows : List Row :=
  [{ op := 0x20, fixed := 0x2000000000000000, mask := 0xFFFFFFFF00000000,
     build := fun w => .palColor (fieldA w).toNat },
   { op := 0x21, fixed := 0x2100000000000000, mask := 0xFFFFFFFFFFFFFFFF,
     build := fun _ => .palLdRom },
   { op := 0x22, fixed := 0x2200000000000000, mask := 0xFFFFFFFFFFFFFFFF,
     build := fun _ => .palLdEmb },
   { op := 0x23, fixed := 0x2300000000000000, mask := 0xFFFFFFFFFFFFFFFF,
     build := fun _ => .palLdBoot },
   { op := 0x24, fixed := 0x2400000000000000, mask := 0xFFFFFFFF00000000,
     build := fun w => .palGet (fieldA w).toNat },
   { op := 0x25, fixed := 0x2500000000000000, mask := 0xFFFFFFFFFFFFFFFF,
     build := fun _ => .palExpand }]

/-- Palette embedding serializer commands (R75). -/
def embeddingRows : List Row :=
  [{ op := 0x30, fixed := 0x3000000000000000, mask := 0xFFFFFFFFFFFFFFFF,
     build := fun _ => .embClr },
   { op := 0x31, fixed := 0x3100000000000000, mask := 0xFFFFFFFFFFFFFF00,
     build := fun w => .embPut (byteOperand w) },
   { op := 0x32, fixed := 0x3200000000000000, mask := 0xFFFFFFFF00000000,
     build := fun w => .embGet (fieldA w).toNat },
   { op := 0x33, fixed := 0x3300000000000000, mask := 0xFFFFFFFFFFFFFFFF,
     build := fun _ => .embEnc },
   { op := 0x34, fixed := 0x3400000000000000, mask := 0xFFFFFFFFFFFFFFFF,
     build := fun _ => .embEncW },
   { op := 0x35, fixed := 0x3500000000000000, mask := 0xFFFFFFFFFFFFFFFF,
     build := fun _ => .embDec },
   { op := 0x36, fixed := 0x3600000000000000, mask := 0xFFFFFFFFFFFFFFFF,
     build := fun _ => .embDecM }]

/-- Nearest-colour classifier command (R75). -/
def classifierRows : List Row :=
  [{ op := 0x40, fixed := 0x4000000000000000, mask := 0xFFFFFFFFFF000000,
     build := fun w => .clsIdx (redOperand w) (greenOperand w) (byteOperand w) }]

/-- Nc metadata codec commands (R75). -/
def ncRows : List Row :=
  [{ op := 0x50, fixed := 0x5000000000000000, mask := 0xFFFFFFFFFFFFFFF8,
     build := fun w => .ncEnc (ncOperand w) },
   { op := 0x51, fixed := 0x5100000000000000, mask := 0xFF00FFFFFFFFFFC0,
     build := fun w => .ncDec (fieldF w).toNat (index0Operand w) (index1Operand w) (index2Operand w) }]

/-- Data masking commands (R75). -/
def maskRows : List Row :=
  [{ op := 0x60, fixed := 0x6000000000000000, mask := 0xFFF80000000000FF,
     build := fun w => .maskVal (refOperand w) (modulusOperand w) (xOperand w) (yOperand w) },
   { op := 0x61, fixed := 0x6100000000000000, mask := 0xFFF8000000000000,
     build := fun w => .maskAdd (refOperand w) (modulusOperand w) (xOperand w) (yOperand w) (byteOperand w).toNat },
   { op := 0x62, fixed := 0x6200000000000000, mask := 0xFFF8000000000000,
     build := fun w => .maskSub (refOperand w) (modulusOperand w) (xOperand w) (yOperand w) (byteOperand w).toNat }]

/-- Bit-stream packer commands (R75). -/
def packerRows : List Row :=
  [{ op := 0x70, fixed := 0x7000000000000000, mask := 0xFFFFFFFFFFFFFFFF,
     build := fun _ => .pkRst },
   { op := 0x71, fixed := 0x7100000000000000, mask := 0xFF00FFFF00000000,
     build := fun w => .pkWrite (fieldA w) (widthOperand w) },
   { op := 0x72, fixed := 0x7200000000000000, mask := 0xFFFFFFFFFFFFFFFF,
     build := fun _ => .pkAlign },
   { op := 0x73, fixed := 0x7300000000000000, mask := 0xFFFFFFFF00000000,
     build := fun w => .pkGet (fieldA w).toNat }]

/-- Bit-stream unpacker commands (R75). -/
def unpackerRows : List Row :=
  [{ op := 0x78, fixed := 0x7800000000000000, mask := 0xFFFFFFFFFFFFFFFF,
     build := fun _ => .upRst },
   { op := 0x79, fixed := 0x7900000000000000, mask := 0xFFFFFFFFFFFFFF00,
     build := fun w => .upPut (byteOperand w) },
   { op := 0x7A, fixed := 0x7A00000000000000, mask := 0xFF00FFFFFFFFFFFF,
     build := fun w => .upRead (widthOperand w) },
   { op := 0x7B, fixed := 0x7B00000000000000, mask := 0xFFFFFFFFFFFFFFFF,
     build := fun _ => .upMore },
   { op := 0x7C, fixed := 0x7C00000000000000, mask := 0xFFFFFFFFFFFFFFFF,
     build := fun _ => .upRew }]

/-- The opcode map, all 33 rows (R75). -/
def rows : List Row :=
  systemRows ++ modeRows ++ paletteRows ++ embeddingRows ++ classifierRows ++ ncRows ++ maskRows ++ packerRows ++ unpackerRows

/-- The decoder of R76: find the row whose opcode is the word's, then test the row's mask. -/
def decode (w : Word) : Except DecodeReject Instr :=
  match rows.find? (fun row => row.op == fieldOp w) with
  | none => .error .unknownOpcode
  | some row => if w &&& row.mask = row.fixed then .ok (row.build w) else .error .reservedBits

/-! ## The encoder -/

/-- A command word from its four fields (R70): op, f, c, a from the most significant side. -/
def cmdWord (op f : BitVec 8) (c : BitVec 16) (a : BitVec 32) : Word := op ++ f ++ c ++ a

/-- Format B: a[7:0] = byte, the rest of a zero (R71). -/
def packByte (b : Byte) : BitVec 32 := (0 : BitVec 24) ++ b
/-- Format C: a[23:16] = R, a[15:8] = G, a[7:0] = B, a[31:24] = 0 (R71). -/
def packColour (r g b : Byte) : BitVec 32 := (0 : BitVec 8) ++ r ++ g ++ b
/-- Format N3: a[2:0] = nc, the rest of a zero (R71). -/
def packNc (nc : BitVec 3) : BitVec 32 := (0 : BitVec 29) ++ nc
/-- Format NI: a[5:4] = i0, a[3:2] = i1, a[1:0] = i2, the rest of a zero (R71). -/
def packIndices (i0 i1 i2 : Nat) : BitVec 32 :=
  (0 : BitVec 26) ++ BitVec.ofNat 2 i0 ++ BitVec.ofNat 2 i1 ++ BitVec.ofNat 2 i2
/-- Formats MV and MI: f[2:0] = ref, f[7:3] = 0 (R71). -/
def packRef (ref : BitVec 3) : BitVec 8 := (0 : BitVec 5) ++ ref
/-- Formats MV and MI: a[31:20] = x, a[19:8] = y, a[7:0] = idx, which is 0 in format MV (R71). -/
def packCoords (x y idx : Nat) : BitVec 32 := BitVec.ofNat 12 x ++ BitVec.ofNat 12 y ++ BitVec.ofNat 8 idx

/-- The word of a command (R71, R75); for a well-formed command no operand bit is lost (R74). -/
def encode : Instr → Word
  | .srst => cmdWord 0x01 0 0 0
  | .csrRd n => cmdWord 0x02 (BitVec.ofNat 8 n) 0 0
  | .modeSet v => cmdWord 0x10 0 0 (BitVec.ofNat 32 v)
  | .modeByNc v => cmdWord 0x11 0 0 (BitVec.ofNat 32 v)
  | .modeByCc v => cmdWord 0x12 0 0 (BitVec.ofNat 32 v)
  | .palColor v => cmdWord 0x20 0 0 (BitVec.ofNat 32 v)
  | .palLdRom => cmdWord 0x21 0 0 0
  | .palLdEmb => cmdWord 0x22 0 0 0
  | .palLdBoot => cmdWord 0x23 0 0 0
  | .palGet v => cmdWord 0x24 0 0 (BitVec.ofNat 32 v)
  | .palExpand => cmdWord 0x25 0 0 0
  | .embClr => cmdWord 0x30 0 0 0
  | .embPut b => cmdWord 0x31 0 0 (packByte b)
  | .embGet v => cmdWord 0x32 0 0 (BitVec.ofNat 32 v)
  | .embEnc => cmdWord 0x33 0 0 0
  | .embEncW => cmdWord 0x34 0 0 0
  | .embDec => cmdWord 0x35 0 0 0
  | .embDecM => cmdWord 0x36 0 0 0
  | .clsIdx r g b => cmdWord 0x40 0 0 (packColour r g b)
  | .ncEnc nc => cmdWord 0x50 0 0 (packNc nc)
  | .ncDec cnt i0 i1 i2 => cmdWord 0x51 (BitVec.ofNat 8 cnt) 0 (packIndices i0 i1 i2)
  | .maskVal ref m x y => cmdWord 0x60 (packRef ref) (BitVec.ofInt 16 m) (packCoords x y 0)
  | .maskAdd ref m x y idx => cmdWord 0x61 (packRef ref) (BitVec.ofInt 16 m) (packCoords x y idx)
  | .maskSub ref m x y idx => cmdWord 0x62 (packRef ref) (BitVec.ofInt 16 m) (packCoords x y idx)
  | .pkRst => cmdWord 0x70 0 0 0
  | .pkWrite v w => cmdWord 0x71 (BitVec.ofInt 8 w) 0 v
  | .pkAlign => cmdWord 0x72 0 0 0
  | .pkGet v => cmdWord 0x73 0 0 (BitVec.ofNat 32 v)
  | .upRst => cmdWord 0x78 0 0 0
  | .upPut b => cmdWord 0x79 0 0 (packByte b)
  | .upRead n => cmdWord 0x7A (BitVec.ofInt 8 n) 0 0
  | .upMore => cmdWord 0x7B 0 0 0
  | .upRew => cmdWord 0x7C 0 0 0

/-! ## The opcode table's words -/

/-- An instruction of the opcode table as a command word: its low `nbits` bits are those of `w`, every other bit is 0. -/
def tableWord (nbits w : Nat) : Word := BitVec.ofNat 64 (w % 2 ^ nbits)

/-- What the decoder reads from an instruction of the opcode table, numbered as the table numbers it. -/
def decodeTableWord (nbits w : Nat) : Option Instr :=
  match decode (tableWord nbits w) with
  | .ok i => some i
  | .error _ => none

end Sys2Proof
end

