-- ==== Sys2Proof/Machine/Flags.lean ====
section
/-! DEFINITION. The unit has no status flags and no condition codes (10_state.md R27). The only status it computes is
the error code of a response (60_exceptions.md R220) and the layout of the response word (30_encoding.md R72). -/

namespace Sys2Proof.Machine

/-- The error kinds (R220). -/
inductive ErrorKind where
  | unsupportedColorMode
  | invalidPaletteLength
  | invalidIndexCount
  | invalidBitWidth
  | invalidModulus
  | indexOutOfRange
  | invalidIndexValue
  | bufferFull
  | nonStandardPalette
  | illegalCommand
deriving DecidableEq, Repr

/-- The code of an error kind; 0 is success (R220). -/
def ErrorKind.code : ErrorKind → Nat
  | .unsupportedColorMode => 1
  | .invalidPaletteLength => 2
  | .invalidIndexCount => 3
  | .invalidBitWidth => 4
  | .invalidModulus => 5
  | .indexOutOfRange => 6
  | .invalidIndexValue => 7
  | .bufferFull => 8
  | .nonStandardPalette => 9
  | .illegalCommand => 10

/-- A response word: err in bits 63:56, aux in bits 55:32, val in bits 31:0 (R72). -/
def rspWord (err aux val : Nat) : Word := BitVec.ofNat 8 err ++ BitVec.ofNat 24 aux ++ BitVec.ofNat 32 val

/-- Field err of a response word (R72). -/
def rspErr (r : Word) : Nat := (r.extractLsb 63 56).toNat

/-- Field aux of a response word (R72). -/
def rspAux (r : Word) : Nat := (r.extractLsb 55 32).toNat

/-- Field val of a response word (R72). -/
def rspVal (r : Word) : Nat := (r.extractLsb 31 0).toNat

end Sys2Proof.Machine
end

