-- ==== Sys2Proof/Config.lean ====
section
/-! DEFINITION. The open parameters of the unit (00_scope.md R5): their shape is the spec's, their values are not.
Each open value is an opaque constant, so that nothing proved of the model rests on a value (R6). -/

namespace Sys2Proof.Config

/-- PK_CAP - 1: every 24-bit value is admitted, none is known (R5). -/
opaque pkCapLessOne : BitVec 24

/-- UP_CAP - 1: every 24-bit value is admitted, none is known (R5). -/
opaque upCapLessOne : BitVec 24

/-- PK_CAP, the packer's capacity in bytes: some integer with 1 <= PK_CAP <= 2^24 (R5). -/
def pkCap : Nat := pkCapLessOne.toNat + 1

/-- UP_CAP, the unpacker's capacity in bytes: some integer with 1 <= UP_CAP <= 2^24 (R5). -/
def upCap : Nat := upCapLessOne.toNat + 1

/-- PAL4[1..3], the open colours of the 4-colour palette (R5; 10_state.md R32).
The spec fixes PAL4[0]; the value of this constant at 0 is never read. -/
opaque pal4Open : BitVec 2 → Rgb

/-- LVL2, the two levels of a 2-level channel (R5; 10_state.md R32). -/
opaque lvl2 : BitVec 1 → Byte

/-- LVL4, the four levels of a 4-level channel that is not reduced (R5; 10_state.md R32). -/
opaque lvl4 : BitVec 2 → Byte

/-- BOOTRGB[0]: the colour the spec names Black; its channels are open (R5; 10_state.md R32). -/
opaque bootBlack : Rgb

/-- BOOTRGB[1]: the colour the spec names Cyan; its channels are open (R5; 10_state.md R32). -/
opaque bootCyan : Rgb

/-- BOOTRGB[2]: the colour the spec names Yellow; its channels are open (R5; 10_state.md R32). -/
opaque bootYellow : Rgb

end Sys2Proof.Config
end

