-- ==== Sys2Proof/Machine/Rom.lean ====
section
/-! DEFINITION. The read-only tables: the ColorMode registry (10_state.md R30, R31) and the palette ROM (R32 to R37).
No command writes them, so they are constants and not state (R37). -/

namespace Sys2Proof.Machine

/-- The seven colour modes that have a descriptor, by ncValue; row 0 of the registry is reserved (R30). -/
inductive ColorMode where
  | nc1 | nc2 | nc3 | nc4 | nc5 | nc6 | nc7
deriving DecidableEq, Repr

/-- Registry rows 1 to 7, in order (R30). -/
def allModes : List ColorMode := [.nc1, .nc2, .nc3, .nc4, .nc5, .nc6, .nc7]

/-- ncValue of a mode (R30). -/
def ColorMode.ncValue : ColorMode → Nat
  | .nc1 => 1 | .nc2 => 2 | .nc3 => 3 | .nc4 => 4 | .nc5 => 5 | .nc6 => 6 | .nc7 => 7

/-- CC(n), the colour count (R30). PRESUMED in the spec itself: the pairing of ncValue and count is from general
knowledge (log entry 7). -/
def ColorMode.colorCount : ColorMode → Nat
  | .nc1 => 4 | .nc2 => 8 | .nc3 => 16 | .nc4 => 32 | .nc5 => 64 | .nc6 => 128 | .nc7 => 256

/-- BPM(n), bits per module (R30). -/
def ColorMode.bitsPerModule : ColorMode → Nat
  | .nc1 => 2 | .nc2 => 3 | .nc3 => 4 | .nc4 => 5 | .nc5 => 6 | .nc6 => 7 | .nc7 => 8

/-- INTERP(n), whether the mode requires interpolation (R30). -/
def ColorMode.interp : ColorMode → Bool
  | .nc1 => false | .nc2 => false | .nc3 => false | .nc4 => false | .nc5 => false | .nc6 => true | .nc7 => true

/-- EC(n), the embedded colour count (R30). -/
def ColorMode.embeddedCount : ColorMode → Nat
  | .nc1 => 4 | .nc2 => 8 | .nc3 => 16 | .nc4 => 32 | .nc5 => 64 | .nc6 => 64 | .nc7 => 64

/-- The registry looked up by ncValue; 0 and every value above 7 fail (R30, R101). -/
def modeOfNc (v : Nat) : Option ColorMode := allModes.find? (fun n => n.ncValue == v)

/-- The registry looked up by colour count: the n with CC(n) = v (R103). -/
def modeOfCount (v : Nat) : Option ColorMode := allModes.find? (fun n => n.colorCount == v)

/-- The response form of a descriptor: n + 8*INTERP(n) + 16*BPM(n) + 256*CC(n) (R100). -/
def ColorMode.descriptor (n : ColorMode) : Nat :=
  n.ncValue + 8 * n.interp.toNat + 16 * n.bitsPerModule + 256 * n.colorCount

/-- LVL8, the eight full levels (R32; log entry 9). -/
def lvl8 (k : BitVec 3) : Byte := [0, 36, 73, 109, 145, 182, 218, 255].getD k.toNat 0

/-- EMB4, the four embedded levels of a reduced channel (R32; log entry 9). -/
def emb4 (k : BitVec 2) : Byte := [0, 73, 182, 255].getD k.toNat 0

/-- EMBPOS, the position of each embedded level among the eight (R33). -/
def embPos (k : BitVec 2) : BitVec 3 := [0, 2, 5, 7].getD k.toNat 0

/-- PAL4: black at index 0, the other three colours open (R32). -/
def pal4 (k : BitVec 2) : Rgb := if k = 0 then ⟨0, 0, 0⟩ else Config.pal4Open k

/-- ROMFULL(n, i): an index is sliced into level numbers, R the most significant, B the least (R34; log entry 8). -/
def romFull (n : ColorMode) (i : BitVec 8) : Rgb :=
  match n with
  | .nc1 => pal4 (i.extractLsb 1 0)
  | .nc2 => ⟨Config.lvl2 (i.extractLsb 2 2), Config.lvl2 (i.extractLsb 1 1), Config.lvl2 (i.extractLsb 0 0)⟩
  | .nc3 => ⟨Config.lvl4 (i.extractLsb 3 2), Config.lvl2 (i.extractLsb 1 1), Config.lvl2 (i.extractLsb 0 0)⟩
  | .nc4 => ⟨Config.lvl4 (i.extractLsb 4 3), Config.lvl4 (i.extractLsb 2 1), Config.lvl2 (i.extractLsb 0 0)⟩
  | .nc5 => ⟨Config.lvl4 (i.extractLsb 5 4), Config.lvl4 (i.extractLsb 3 2), Config.lvl4 (i.extractLsb 1 0)⟩
  | .nc6 => ⟨lvl8 (i.extractLsb 6 4), Config.lvl4 (i.extractLsb 3 2), Config.lvl4 (i.extractLsb 1 0)⟩
  | .nc7 => ⟨lvl8 (i.extractLsb 7 5), lvl8 (i.extractLsb 4 2), Config.lvl4 (i.extractLsb 1 0)⟩

/-- ROMEMB(n, e): the full palette for modes 1 to 5, the 64-colour subset for modes 6 and 7 (R35; log entry 8). -/
def romEmb (n : ColorMode) (e : BitVec 8) : Rgb :=
  match n with
  | .nc1 => romFull .nc1 e
  | .nc2 => romFull .nc2 e
  | .nc3 => romFull .nc3 e
  | .nc4 => romFull .nc4 e
  | .nc5 => romFull .nc5 e
  | .nc6 => ⟨emb4 (e.extractLsb 5 4), Config.lvl4 (e.extractLsb 3 2), Config.lvl4 (e.extractLsb 1 0)⟩
  | .nc7 => ⟨emb4 (e.extractLsb 5 4), emb4 (e.extractLsb 3 2), Config.lvl4 (e.extractLsb 1 0)⟩

/-- The full palette of a mode, index order (R34). -/
def fullPalette (n : ColorMode) : List Rgb := (List.range n.colorCount).map (fun i => romFull n (BitVec.ofNat 8 i))

/-- The embedded palette of a mode, index order (R35). -/
def embPalette (n : ColorMode) : List Rgb := (List.range n.embeddedCount).map (fun e => romEmb n (BitVec.ofNat 8 e))

/-- The bootstrap palette BOOTRGB: Black, Cyan, Yellow (R32, R140). -/
def bootPalette : List Rgb := [Config.bootBlack, Config.bootCyan, Config.bootYellow]

/-- A colour as a 24-bit entry: R in bits 23:16, G in bits 15:8, B in bits 7:0 (R8, R23). -/
def packRgb (c : Rgb) : BitVec 24 := c.r ++ c.g ++ c.b

end Sys2Proof.Machine
end

