-- ==== Sys2Proof/Machine/State.lean ====
section
/-! DEFINITION. The state of the unit (10_state.md section 2), its reset value (R38), and the reasons a step can stop. -/

namespace Sys2Proof.Machine

/-- The state: the unit's mutable tuple (R22 to R26), and the two ports (R61).
PALCNT, EMBLEN, PKLEN and UPLEN are the lengths of `w`, `emb`, `pkbuf` and `upbuf`; entries beyond them do not exist
(R39; log entry 4). -/
structure State where
  /-- MODE, the selected ncValue, 0 for none (R22). -/
  mode : BitVec 3
  /-- W, the valid entries of the working palette (R23). -/
  w : List Rgb
  /-- EMB, the valid bytes of the embedded palette buffer (R24). -/
  emb : List Byte
  /-- PKBUF, the completed bytes of the packer (R25). -/
  pkbuf : List Byte
  /-- PKACC, the packer's partial byte (R25). -/
  pkacc : Byte
  /-- PKNB, the number of bits in the partial byte (R25). -/
  pknb : BitVec 3
  /-- UPBUF, the valid bytes of the unpacker's buffer (R26). -/
  upbuf : List Byte
  /-- UPCUR, the unpacker's bit cursor (R26; log entry 5). -/
  upcur : Nat
  /-- The command port: the words presented and not yet accepted, the next one first (R61; log entry 1). -/
  cmds : List Word
  /-- The response port: the words produced, the first one first (R61, R266; log entry 1). No command reads it. -/
  rsps : List Word
deriving DecidableEq, Repr

/-- The reasons the unit stops. There is none: every command succeeds or answers an error code and the unit goes on
(00_scope.md R10; 60_exceptions.md R226; log entry 3). Safe: nothing is hidden in a stop. -/
inductive Fault where
deriving DecidableEq, Repr

/-- The reasons the model gives no meaning. -/
inductive Refusal where
  /-- The command has no meaning in the model yet: raised by an arm of `exec` that rejects by name. Safe; no arm does. -/
  | notModelled (mnemonic : String)
deriving DecidableEq, Repr

/-- How a step ends. -/
abbrev Result := Host.Outcome State Fault Refusal

/-- The state after hardware reset (R38, R250): every scalar 0, every buffer empty, no command in flight, no response. -/
def State.reset : State where
  mode := 0
  w := []
  emb := []
  pkbuf := []
  pkacc := 0
  pknb := 0
  upbuf := []
  upcur := 0
  cmds := []
  rsps := []

end Sys2Proof.Machine
end

