-- ==== Sys2Proof/Machine/Ops.lean ====
section
/-! DEFINITION. The named operations over the state: the updates of its parts, the two outcomes of a command
(`respond` and `raise`), the command port, and the buffers. -/

namespace Sys2Proof.Machine

/-! ## Updates of one part of the state -/

/-- MODE <- n (R22). -/
def State.setMode (s : State) (n : BitVec 3) : State := { s with mode := n }
/-- W and PALCNT replaced whole (R23). -/
def State.setW (s : State) (p : List Rgb) : State := { s with w := p }
/-- EMB and EMBLEN (R24). -/
def State.setEmb (s : State) (bytes : List Byte) : State := { s with emb := bytes }
/-- PKBUF and PKLEN, PKACC, PKNB (R25). -/
def State.setPacker (s : State) (buf : List Byte) (acc : Byte) (nb : BitVec 3) : State :=
  { s with pkbuf := buf, pkacc := acc, pknb := nb }
/-- UPBUF and UPLEN (R26). -/
def State.setUpbuf (s : State) (bytes : List Byte) : State := { s with upbuf := bytes }
/-- UPCUR (R26). -/
def State.setUpcur (s : State) (cur : Nat) : State := { s with upcur := cur }
/-- The words still to be accepted at the command port (R61). -/
def State.setCmds (s : State) (ws : List Word) : State := { s with cmds := ws }
/-- One response word put on the response port (R61). -/
def State.putRsp (s : State) (r : Word) : State := { s with rsps := s.rsps ++ [r] }

/-! ## The outcomes of a command -/

/-- Success: the command ends, err = 0, with its two results (00_scope.md R8, R10; 30_encoding.md R72). -/
def respond (aux val : Nat) (s : State) : Result := .next (s.putRsp (rspWord 0 aux val))

/-- Taking an error, the unit's only exceptional event (60_exceptions.md R220 to R222): the response carries the code
with aux = val = 0, and nothing else happens. No state is saved, no mode or mask changes and control goes nowhere
(R225); there is nothing to return from (R226). -/
def raise (e : ErrorKind) (s : State) : Result := .next (s.putRsp (rspWord e.code 0 0))

/-! ## The command port -/

/-- The next command word, and the state that has accepted it; none when no command is presented (R61). -/
def acceptCommand (s : State) : Option (Word × State) :=
  match s.cmds with
  | [] => none
  | c :: rest => some (c, s.setCmds rest)

/-- Presenting a command word ahead of those already presented. -/
def presentCommand (c : Word) (s : State) : State := s.setCmds (c :: s.cmds)

/-- With no command presented the unit holds its state and does nothing (R233; log entry 2). -/
def idle (s : State) : Result := .next s

/-- The answer to a word that is no command: IllegalCommand, whichever bit makes it so (R76). -/
def rejectWord (_ : DecodeReject) (s : State) : Result := raise .illegalCommand s

/-! ## The buffers -/

/-- Capacity of the working palette (00_scope.md R4). -/
def paletteCap : Nat := 256
/-- EMB_CAP (00_scope.md R4). -/
def embCap : Nat := 768

/-- The buffers are within their capacities (R23 to R26). With entries beyond the lengths absent (R39) this is all that
makes a state's storage well formed, and equal storage is equal data (log entry 4). -/
def Memory.wf (s : State) : Bool :=
  decide (s.w.length ≤ paletteCap) && decide (s.emb.length ≤ embCap)
    && decide (s.pkbuf.length ≤ Config.pkCap) && decide (s.upbuf.length ≤ Config.upCap)

/-- A whole palette loaded into W; the response is the new PALCNT (R56, R73). -/
def loadPalette (p : List Rgb) (s : State) : Result := respond 0 p.length (s.setW p)

/-- A whole byte list stored in EMB; the response is the new EMBLEN (R56, R73). -/
def storeEmb (bytes : List Byte) (s : State) : Result := respond 0 bytes.length (s.setEmb bytes)

/-- A byte appended to EMB, or BufferFull (R58, R152). -/
def appendEmb (b : Byte) (s : State) : Result :=
  if embCap ≤ s.emb.length then raise .bufferFull s else storeEmb (s.emb ++ [b]) s

/-- A byte appended to UPBUF, or BufferFull; the cursor does not move (R58, R197). -/
def appendUp (b : Byte) (s : State) : Result :=
  if Config.upCap ≤ s.upbuf.length then raise .bufferFull s
  else respond 0 (s.upbuf.length + 1) (s.setUpbuf (s.upbuf ++ [b]))

/-- The element that a bounds-checked read found, or IndexOutOfRange (R58). -/
def respondEntry (found : Option Nat) (s : State) : Result :=
  match found with
  | none => raise .indexOutOfRange s
  | some v => respond 0 v s

/-- The packer emptied: completed and pending bits discarded (R191). -/
def clearPacker (s : State) : State := s.setPacker [] 0 0

/-- The unpacker emptied (R196). -/
def clearUnpacker (s : State) : State := (s.setUpbuf []).setUpcur 0

/-- The state after hardware reset, with the ports as they are (R38, R210). -/
def softReset (s : State) : State := clearUnpacker (clearPacker (((s.setMode 0).setW []).setEmb []))

/-- The scalar that a CSR number names; numbers from 10 on are reserved (R28). -/
def csrValue (s : State) : Nat → Option Nat
  | 0 => some s.mode.toNat
  | 1 => some s.w.length
  | 2 => some s.emb.length
  | 3 => some s.pkbuf.length
  | 4 => some s.pknb.toNat
  | 5 => some s.pkacc.toNat
  | 6 => some s.upbuf.length
  | 7 => some s.upcur
  | 8 => some Config.pkCap
  | 9 => some Config.upCap
  | _ => none

/-! ## Bit streams -/

/-- One bit of a byte assigned: x[j] <- b. -/
def setBit (x : Byte) (j : Nat) (b : Bool) : Byte := if b then x ||| (1#8 <<< j) else x &&& ~~~(1#8 <<< j)

/-- One bit appended to the packer's stream: it goes to PKACC[7 - PKNB], and a byte that fills is flushed (R192). -/
def putBit (b : Bool) (s : State) : State :=
  if s.pknb.toNat + 1 = 8 then s.setPacker (s.pkbuf ++ [setBit s.pkacc (7 - s.pknb.toNat) b]) 0 0
  else s.setPacker s.pkbuf (setBit s.pkacc (7 - s.pknb.toNat) b) (s.pknb + 1)

/-- Bits k-1 down to 0 of v appended to the packer's stream (R192). -/
def putBits (v : BitVec 32) : Nat → State → State
  | 0, s => s
  | k + 1, s => putBits v k (putBit (v.getLsbD k) s)

/-- The bytes that a write of k bits completes (R192). -/
def completedBytes (k : Nat) (s : State) : Nat := (s.pknb.toNat + k) / 8

/-- The response of PK.WRITE and PK.ALIGN: the new PKLEN, and the new PKNB in aux (R73). -/
def respondPacker (s : State) : Result := respond s.pknb.toNat s.pkbuf.length s

/-- Bit position p of a byte buffer, most significant bit of byte 0 first; positions past the end read 0 (R52, R198). -/
def bitAt (buf : List Byte) (p : Nat) : Nat :=
  if p < 8 * buf.length then ((buf.getD (p / 8) 0).getLsbD (7 - p % 8)).toNat else 0

/-- The number whose n bits, most significant first, stand at positions cur to cur + n - 1 (R198). -/
def readBits (buf : List Byte) (cur : Nat) : Nat → Nat
  | 0 => 0
  | n + 1 => 2 * readBits buf cur n + bitAt buf (cur + n)

end Sys2Proof.Machine
end

