-- ==== Sys2Proof/Machine/Operands.lean ====
section
/-! DEFINITION. What a command takes its operands to mean, beyond the field they stand in (30_encoding.md R74; the fields
themselves are read in Decode.lean): the selected mode, a checked bit width, a checked modulus, three checked bootstrap
indices. Each answers none where the command raises an error. -/

namespace Sys2Proof.Machine

/-- The selected mode; none when MODE = 0 (10_state.md R22). -/
def selectedMode (s : State) : Option ColorMode := modeOfNc s.mode.toNat

/-- A bit width or bit count: 1 to 32 (46_bitstream.md R192, R198). -/
def bitWidth (w : Int) : Option Nat := if w < 1 ∨ 32 < w then none else some w.toNat

/-- A mask modulus: positive (45_masking.md R172). -/
def modulus (m : Int) : Option Nat := if m ≤ 0 then none else some m.toNat

/-- Three bootstrap indices as bits: each is 0 or 1 (43_nc_codec.md R142). -/
def bootstrapBits (i0 i1 i2 : Nat) : Option Nat := if 1 < i0 ∨ 1 < i1 ∨ 1 < i2 then none else some (4 * i0 + 2 * i1 + i2)

end Sys2Proof.Machine
end

