-- ==== Sys2Proof/Machine/BitStream.lean ====
section
/-! DEFINITION. Bit-stream packer and unpacker commands (46_bitstream.md). -/

namespace Sys2Proof.Machine

/-- PK.RST (R191). -/
def execPkRst (s : State) : Result := respond 0 0 (clearPacker s)

/-- PK.WRITE (R192): the whole write is refused when the bytes it would complete do not fit. -/
def execPkWrite (v : BitVec 32) (w : Int) (s : State) : Result :=
  match bitWidth w with
  | none => raise .invalidBitWidth s
  | some k =>
    if Config.pkCap < s.pkbuf.length + completedBytes k s then raise .bufferFull s else respondPacker (putBits v k s)

/-- PK.ALIGN (R193). -/
def execPkAlign (s : State) : Result :=
  if s.pknb = 0 then respond 0 s.pkbuf.length s
  else if Config.pkCap ≤ s.pkbuf.length then raise .bufferFull s
  else respondPacker (s.setPacker (s.pkbuf ++ [s.pkacc]) 0 0)

/-- PK.GET (R194). -/
def execPkGet (i : Nat) (s : State) : Result := respondEntry (s.pkbuf[i]?.map BitVec.toNat) s

/-- UP.RST (R196). -/
def execUpRst (s : State) : Result := respond 0 0 (clearUnpacker s)

/-- UP.PUT (R197). -/
def execUpPut (b : Byte) (s : State) : Result := appendUp b s

/-- UP.READ (R198): positions past the end read 0, and the cursor stops at the end. -/
def execUpRead (n : Int) (s : State) : Result :=
  match bitWidth n with
  | none => raise .invalidBitWidth s
  | some k => respond 0 (readBits s.upbuf s.upcur k) (s.setUpcur (min (s.upcur + k) (8 * s.upbuf.length)))

/-- UP.MORE (R199). -/
def execUpMore (s : State) : Result := respond 0 (if s.upcur < 8 * s.upbuf.length then 1 else 0) s

/-- UP.REW (R200). -/
def execUpRew (s : State) : Result := respond 0 0 (s.setUpcur 0)

end Sys2Proof.Machine
end

