-- ==== Sys2Proof/Machine/Classifier.lean ====
section
/-! DEFINITION. Nearest-colour classifier command (42_classifier.md). -/

namespace Sys2Proof.Machine

/-- The square of the difference of two channels, over the integers (R130). -/
def channelDist (p q : Byte) : Nat := (((p.toNat : Int) - q.toNat) * ((p.toNat : Int) - q.toNat)).toNat

/-- Squared Euclidean distance of two colours (R130). -/
def colorDist (p q : Rgb) : Nat := channelDist p.r q.r + channelDist p.g q.g + channelDist p.b q.b

/-- The search of R130 over the entries from index i on: strict <, so the lowest index wins a tie. -/
def nearest (c : Rgb) : List Rgb → Nat → Nat × Nat → Nat × Nat
  | [], _, best => best
  | q :: rest, i, best => nearest c rest (i + 1) (if colorDist c q < best.2 then (i, colorDist c q) else best)

/-- CLS.IDX (R130). -/
def execClsIdx (r g b : Byte) (s : State) : Result :=
  match s.w with
  | [] => raise .invalidPaletteLength s
  | q :: rest =>
    respond (nearest ⟨r, g, b⟩ rest 1 (0, colorDist ⟨r, g, b⟩ q)).2 (nearest ⟨r, g, b⟩ rest 1 (0, colorDist ⟨r, g, b⟩ q)).1 s

end Sys2Proof.Machine
end

