-- ==== Sys2Proof/Machine/Embedding.lean ====
section
/-! DEFINITION. Palette embedding serializer commands (44_embedding.md). -/

namespace Sys2Proof.Machine

/-- ser(P): three bytes R, G, B per colour, in index order (R150; 20_memory.md R53). -/
def ser : List Rgb → List Byte
  | [] => []
  | c :: rest => c.r :: c.g :: c.b :: ser rest

/-- deser(Y): one colour per three bytes (R150). Used only on lengths that are multiples of 3. -/
def deser : List Byte → List Rgb
  | r :: g :: b :: rest => ⟨r, g, b⟩ :: deser rest
  | _ => []

/-- EMB.CLR (R151). -/
def execEmbClr (s : State) : Result := storeEmb [] s

/-- EMB.PUT (R152). -/
def execEmbPut (b : Byte) (s : State) : Result := appendEmb b s

/-- EMB.GET (R153). -/
def execEmbGet (i : Nat) (s : State) : Result := respondEntry (s.emb[i]?.map BitVec.toNat) s

/-- EMB.ENC (R154). -/
def execEmbEnc (s : State) : Result :=
  match selectedMode s with
  | none => raise .unsupportedColorMode s
  | some n => storeEmb (ser (embPalette n)) s

/-- EMB.ENCW (R155). -/
def execEmbEncW (s : State) : Result := storeEmb (ser s.w) s

/-- EMB.DEC (R156). -/
def execEmbDec (s : State) : Result :=
  if s.emb.length % 3 ≠ 0 then raise .invalidPaletteLength s else loadPalette (deser s.emb) s

/-- EMB.DECM (R157). -/
def execEmbDecM (s : State) : Result :=
  match selectedMode s with
  | none => raise .unsupportedColorMode s
  | some n =>
    if s.emb.length % 3 ≠ 0 then raise .invalidPaletteLength s
    else if s.emb.length ≠ 3 * n.embeddedCount then raise .invalidPaletteLength s
    else loadPalette (deser s.emb) s

end Sys2Proof.Machine
end

