-- ==== Sys2Proof/Machine/Masking.lean ====
section
/-! DEFINITION. Data masking commands (45_masking.md). -/

namespace Sys2Proof.Machine

/-- The sum that each mask function reduces modulo m (R170; log entry 9). -/
def maskSum (ref : BitVec 3) (x y : Nat) : Nat :=
  match ref.toNat with
  | 0 => x + y
  | 1 => x
  | 2 => y
  | 3 => x / 2 + y / 3
  | 4 => x / 3 + y / 2
  | 5 => (x + y) / 2 + (x + y) / 3
  | 6 => x * x * y % 7 + (2 * x * x + 2 * y) % 19
  | _ => x * y * y % 5 + (2 * x + y * y) % 13

/-- maskAt(x, y, ref, m) (R170). -/
def maskAt (x y : Nat) (ref : BitVec 3) (m : Nat) : Nat := maskSum ref x y % m

/-- MASK.VAL (R172). -/
def execMaskVal (ref : BitVec 3) (m : Int) (x y : Nat) (s : State) : Result :=
  match modulus m with
  | none => raise .invalidModulus s
  | some k => respond 0 (maskAt x y ref k) s

/-- MASK.ADD (R173). -/
def execMaskAdd (ref : BitVec 3) (m : Int) (x y idx : Nat) (s : State) : Result :=
  match modulus m with
  | none => raise .invalidModulus s
  | some k => respond (maskAt x y ref k) ((idx + maskAt x y ref k) % k) s

/-- MASK.SUB (R174): the remainder is the non-negative one (00_scope.md R9). -/
def execMaskSub (ref : BitVec 3) (m : Int) (x y idx : Nat) (s : State) : Result :=
  match modulus m with
  | none => raise .invalidModulus s
  | some k => respond (maskAt x y ref k) (((idx : Int) - maskAt x y ref k) % (k : Int)).toNat s

end Sys2Proof.Machine
end

