-- ==== Sys2Proof/Machine/ModeRegistry.lean ====
section
/-! DEFINITION. ColorMode registry commands (40_mode_registry.md). -/

namespace Sys2Proof.Machine

/-- The descriptor of a mode as a response (R100, R73). -/
def respondDescriptor (n : ColorMode) (s : State) : Result := respond n.embeddedCount n.descriptor s

/-- MODE.SET (R101). -/
def execModeSet (v : Nat) (s : State) : Result :=
  match modeOfNc v with
  | none => raise .unsupportedColorMode s
  | some n => respondDescriptor n (s.setMode (BitVec.ofNat 3 v))

/-- MODE.BYNC (R102). -/
def execModeByNc (v : Nat) (s : State) : Result :=
  match modeOfNc v with
  | none => raise .unsupportedColorMode s
  | some n => respondDescriptor n s

/-- MODE.BYCC (R103). -/
def execModeByCc (v : Nat) (s : State) : Result :=
  match modeOfCount v with
  | none => raise .unsupportedColorMode s
  | some n => respondDescriptor n s

end Sys2Proof.Machine
end

