-- ==== Sys2Proof/Machine/NcCodec.lean ====
section
/-! DEFINITION. Nc metadata codec commands (43_nc_codec.md). -/

namespace Sys2Proof.Machine

/-- The three bootstrap indices of an ncValue, bit 2 first, in their response fields (R141). -/
def ncIndices (nc : BitVec 3) : Nat := 16 * (nc.getLsbD 2).toNat + 4 * (nc.getLsbD 1).toNat + (nc.getLsbD 0).toNat

/-- NC.ENC (R141). -/
def execNcEnc (nc : BitVec 3) (s : State) : Result := respond 0 (ncIndices nc) s

/-- NC.DEC (R142); an index above 1 is refused with an error code, as the rule says (log entry 10). -/
def execNcDec (cnt i0 i1 i2 : Nat) (s : State) : Result :=
  if cnt ≠ 3 then raise .invalidIndexCount s
  else
    match bootstrapBits i0 i1 i2 with
    | none => raise .invalidIndexValue s
    | some nc => respond 0 nc s

end Sys2Proof.Machine
end

