-- ==== Sys2Proof/Machine/Palette.lean ====
section
/-! DEFINITION. Palette ROM and interpolator commands (41_palette.md). -/

namespace Sys2Proof.Machine

/-- PAL.COLOR (R111). -/
def execPalColor (i : Nat) (s : State) : Result :=
  match selectedMode s with
  | none => raise .unsupportedColorMode s
  | some n =>
    if n.colorCount ≤ i then raise .indexOutOfRange s
    else respond 0 (packRgb (romFull n (BitVec.ofNat 8 i))).toNat s

/-- PAL.LDROM (R112). -/
def execPalLdRom (s : State) : Result :=
  match selectedMode s with
  | none => raise .unsupportedColorMode s
  | some n => loadPalette (fullPalette n) s

/-- PAL.LDEMB (R113). -/
def execPalLdEmb (s : State) : Result :=
  match selectedMode s with
  | none => raise .unsupportedColorMode s
  | some n => loadPalette (embPalette n) s

/-- PAL.LDBOOT (R114). -/
def execPalLdBoot (s : State) : Result := loadPalette bootPalette s

/-- PAL.GET (R115). -/
def execPalGet (i : Nat) (s : State) : Result := respondEntry (s.w[i]?.map (fun c => (packRgb c).toNat)) s

/-- PAL.EXPAND (R116): the interpolator; input other than the mode's standard embedded palette is refused with an error
code, as the rule says (log entry 10). -/
def execPalExpand (s : State) : Result :=
  match selectedMode s with
  | none => raise .unsupportedColorMode s
  | some n =>
    if n.interp = false then respond 0 s.w.length s
    else if s.w.length ≠ 64 then raise .invalidPaletteLength s
    else if s.w ≠ embPalette n then raise .nonStandardPalette s
    else loadPalette (fullPalette n) s

end Sys2Proof.Machine
end

