-- ==== Sys2Proof/Machine/System.lean ====
section
/-! DEFINITION. System commands (47_system.md). -/

namespace Sys2Proof.Machine

/-- SRST (R210). -/
def execSrst (s : State) : Result := respond 0 0 (softReset s)

/-- CSR.RD (R211). -/
def execCsrRd (n : Nat) (s : State) : Result :=
  match csrValue s n with
  | none => raise .illegalCommand s
  | some v => respond 0 v s

end Sys2Proof.Machine
end

