-- ==== Sys2Proof/Machine/Dispatch.lean ====
section
/-! DEFINITION. The meaning of every command, one arm per constructor of Instr. -/

namespace Sys2Proof.Machine

def exec (i : Instr) (s : State) : Host.Outcome State Fault Refusal :=
  match i with
  | .srst => Sys2Proof.Machine.execSrst s
  | .csrRd n => Sys2Proof.Machine.execCsrRd n s
  | .modeSet v => Sys2Proof.Machine.execModeSet v s
  | .modeByNc v => Sys2Proof.Machine.execModeByNc v s
  | .modeByCc v => Sys2Proof.Machine.execModeByCc v s
  | .palColor k => Sys2Proof.Machine.execPalColor k s
  | .palLdRom => Sys2Proof.Machine.execPalLdRom s
  | .palLdEmb => Sys2Proof.Machine.execPalLdEmb s
  | .palLdBoot => Sys2Proof.Machine.execPalLdBoot s
  | .palGet k => Sys2Proof.Machine.execPalGet k s
  | .palExpand => Sys2Proof.Machine.execPalExpand s
  | .embClr => Sys2Proof.Machine.execEmbClr s
  | .embPut b => Sys2Proof.Machine.execEmbPut b s
  | .embGet k => Sys2Proof.Machine.execEmbGet k s
  | .embEnc => Sys2Proof.Machine.execEmbEnc s
  | .embEncW => Sys2Proof.Machine.execEmbEncW s
  | .embDec => Sys2Proof.Machine.execEmbDec s
  | .embDecM => Sys2Proof.Machine.execEmbDecM s
  | .clsIdx r g b => Sys2Proof.Machine.execClsIdx r g b s
  | .ncEnc nc => Sys2Proof.Machine.execNcEnc nc s
  | .ncDec cnt i0 i1 i2 => Sys2Proof.Machine.execNcDec cnt i0 i1 i2 s
  | .maskVal ref m x y => Sys2Proof.Machine.execMaskVal ref m x y s
  | .maskAdd ref m x y idx => Sys2Proof.Machine.execMaskAdd ref m x y idx s
  | .maskSub ref m x y idx => Sys2Proof.Machine.execMaskSub ref m x y idx s
  | .pkRst => Sys2Proof.Machine.execPkRst s
  | .pkWrite v w => Sys2Proof.Machine.execPkWrite v w s
  | .pkAlign => Sys2Proof.Machine.execPkAlign s
  | .pkGet k => Sys2Proof.Machine.execPkGet k s
  | .upRst => Sys2Proof.Machine.execUpRst s
  | .upPut b => Sys2Proof.Machine.execUpPut b s
  | .upRead n => Sys2Proof.Machine.execUpRead n s
  | .upMore => Sys2Proof.Machine.execUpMore s
  | .upRew => Sys2Proof.Machine.execUpRew s

end Sys2Proof.Machine
end

