-- ==== Sys2Proof/Machine/Step.lean ====
section
/-! DEFINITION. One step of the unit: it accepts the next command word, decodes it and executes it (20_memory.md R60,
R61). -/

namespace Sys2Proof.Machine

/-- One step. A word that is no command is answered with IllegalCommand (30_encoding.md R76); with no word presented the
unit holds its state (log entry 2). -/
def step (s : State) : Host.Outcome State Fault Refusal :=
  match acceptCommand s with
  | none => idle s
  | some (c, t) =>
    match decode c with
    | .ok i => exec i t
    | .error r => rejectWord r t

/-- The state with an instruction of the opcode table presented as the next command (log entry 11). -/
def State.withFetchWord (s : State) (nbits w : Nat) : State := presentCommand (tableWord nbits w) s

end Sys2Proof.Machine
end

