-- ==== Sys2Proof/Safety.lean ====
section
/-! DEFINITION. The terms in which claims about runs are made: the invariants of the state, and runs of commands. -/

namespace Sys2Proof.Safety

open Sys2Proof.Machine

/-- The low 8 - PKNB bits of PKACC are zero (10_state.md R25). -/
def PackerAligned (s : State) : Prop := s.pkacc.toNat % 2 ^ (8 - s.pknb.toNat) = 0

/-- The cursor does not pass the end of the unpacker's buffer (10_state.md R26). -/
def CursorBounded (s : State) : Prop := s.upcur ≤ 8 * s.upbuf.length

/-- The invariant of the unit's state (10_state.md R23 to R26). -/
structure Inv (s : State) : Prop where
  memory : Memory.wf s = true
  packer : PackerAligned s
  cursor : CursorBounded s

/-- Two states hold the same unit state: they differ in the two ports at most (10_state.md section 2). -/
def SameUnit (s t : State) : Prop := { s with cmds := t.cmds, rsps := t.rsps } = t

/-- The commands of a list executed one after the other. -/
def runInstrs : List Instr → State → Result
  | [], s => .next s
  | i :: rest, s =>
    match exec i s with
    | .next t => runInstrs rest t
    | .fault r => .fault r
    | .refused r => .refused r

/-- A safe run: every response word reports success (60_exceptions.md R227). -/
def NoErrors (rsps : List Word) : Prop := ∀ r ∈ rsps, rspErr r = 0

/-- The fields err, aux and val of the last response word that a command left at the response port (30_encoding.md
R72). -/
def answer (r : Result) : Option (Nat × Nat × Nat) :=
  match r with
  | .next t => t.rsps.getLast?.map (fun w => (rspErr w, rspAux w, rspVal w))
  | .fault _ => none
  | .refused _ => none

/-- The register MODE selects the mode n (10_state.md R22). -/
def SelectedIs (s : State) (n : ColorMode) : Prop := s.mode = BitVec.ofNat 3 n.ncValue

/-- The val of a descriptor, from the formulas of 10_state.md R31. -/
def descriptorVal (v : Nat) : Nat := v + 8 * (if 6 ≤ v then 1 else 0) + 16 * (v + 1) + 256 * 2 ^ (v + 1)

/-- The aux of a descriptor, from the formulas of 10_state.md R31. -/
def descriptorAux (v : Nat) : Nat := min (2 ^ (v + 1)) 64

/-- A list holds the full palette of a mode, entry by entry (10_state.md R34). -/
def HoldsFullPalette (p : List Rgb) (n : ColorMode) : Prop :=
  p.length = n.colorCount ∧ ∀ i < n.colorCount, p[i]? = some (romFull n (BitVec.ofNat 8 i))

/-- A list holds the embedded palette of a mode, entry by entry (10_state.md R35). -/
def HoldsEmbPalette (p : List Rgb) (n : ColorMode) : Prop :=
  p.length = n.embeddedCount ∧ ∀ e < n.embeddedCount, p[e]? = some (romEmb n (BitVec.ofNat 8 e))

/-- A byte list serialises a palette: bytes 3j, 3j+1, 3j+2 are R, G, B of colour j (20_memory.md R53). -/
def Serialises (y : List Byte) (p : List Rgb) : Prop :=
  y.length = 3 * p.length ∧ ∀ (j : Nat) (h : j < p.length),
    y[3 * j]? = some p[j].r ∧ y[3 * j + 1]? = some p[j].g ∧ y[3 * j + 2]? = some p[j].b

/-- The commands that write a value of each pair bit by bit, most significant bit first. -/
def bitWrites (v : BitVec 32) (w : Nat) : List Instr :=
  (List.range w).map (fun j => .pkWrite (BitVec.ofNat 32 (v.getLsbD (w - 1 - j)).toNat) 1)

/-- The packer's logical bit stream, first bit first: the completed bytes, then the pending bits of the partial byte,
each byte most significant bit first (46_bitstream.md R190). -/
def packerStream (s : State) : List Bool :=
  s.pkbuf.flatMap (fun b => (List.range 8).map (fun j => b.getLsbD (7 - j)))
    ++ (List.range s.pknb.toNat).map (fun j => s.pkacc.getLsbD (7 - j))

/-- The bits of a value of width k, most significant first (20_memory.md R52). -/
def valueBits (v : BitVec 32) (k : Nat) : List Bool := (List.range k).map (fun j => v.getLsbD (k - 1 - j))

end Sys2Proof.Safety
end

