-- ==== Sys2Proof/Certificates/Slice0/Obligations.lean ====
section
/-! DEFINITION. The statements about the model, for the provers. Each docstring names the rule it formalises. -/

open Sys2Proof Sys2Proof.Machine Sys2Proof.Safety

/-! ## Encoding -/

/-- Decoding the word of a well-formed command gives the command back: no operand bit of any format is dropped
(30_encoding.md R70, R71, R74, R75). -/
def Obligations.DecodeOfEncode : Prop :=
  ∀ i : Instr, i.wf = true → decode (encode i) = .ok i

/-- Each legal word is the word of exactly the command it decodes to, and that command is well formed: no encoding
behaves as another command (30_encoding.md R77). -/
def Obligations.EncodeOfDecode : Prop :=
  ∀ (w : Word) (i : Instr), decode w = .ok i → i.wf = true ∧ encode i = w

/-- R76: a word is a command exactly when it fits a row of the opcode map, and every other word answers IllegalCommand
(code 10) and changes no state; with the rule's particular cases. -/
def Obligations.LegalWordsAndIllegalAnswer : Prop :=
  (∀ w : Word, (∃ i, decode w = .ok i) ↔ ∃ row ∈ rows, fieldOp w = row.op ∧ w &&& row.mask = row.fixed)
  ∧ rows.length = 33
  ∧ (∀ (s : State) (w : Word) (rest : List Word), s.cmds = w :: rest → (¬ ∃ i, decode w = .ok i) →
      step s = .next { s with cmds := rest, rsps := s.rsps ++ [rspWord 10 0 0] })
  ∧ (∀ w : Word, fieldOp w ∉ rows.map Row.op → ¬ ∃ i, decode w = .ok i)
  ∧ (¬ ∃ i, decode 0 = .ok i) ∧ (¬ ∃ i, decode 0xFFFFFFFFFFFFFFFF = .ok i)
  ∧ (∀ row ∈ rows, row.mask = 0xFFFFFFFFFFFFFFFF → ∀ w : Word, fieldOp w = row.op → w.extractLsb 55 0 ≠ 0 →
      ¬ ∃ i, decode w = .ok i)
  ∧ (∀ w : Word, fieldOp w ≠ 0x60 → fieldOp w ≠ 0x61 → fieldOp w ≠ 0x62 → fieldC w ≠ 0 → ¬ ∃ i, decode w = .ok i)
  ∧ (∀ w : Word, fieldOp w = 0x60 → w.extractLsb 7 0 ≠ 0 → ¬ ∃ i, decode w = .ok i)
  ∧ (∀ (s : State) (n : Nat), 10 ≤ n → (∃ w, decode w = .ok (.csrRd n)) →
      exec (.csrRd n) s = .next (s.putRsp (rspWord 10 0 0)))

/-- The example words of 30_encoding.md R80 are the words of their commands, in both directions. The spec marks R80 as
derived from its rules R70, R71 and R75. -/
def Obligations.ExampleWords : Prop :=
  ∀ p ∈ ([(0x710400000000000A, .pkWrite 10 4), (0x7A0A000000000000, .upRead 10), (0x7AFF000000000000, .upRead (-1)),
      (0x6006000800500700, .maskVal 6 8 5 7), (0x6000FFFF00000000, .maskVal 0 (-1) 0 0),
      (0x4000000000FF0010, .clsIdx 255 0 16), (0x5103000000000011, .ncDec 3 1 0 1),
      (0x1000000000000007, .modeSet 7)] : List (Word × Instr)),
    decode p.1 = .ok p.2 ∧ encode p.2 = p.1

/-! ## The step and the ports -/

/-- A step accepts the next command word and executes the command it decodes to; with no word presented it changes
nothing. The idle step is the model's reading of R233 (log entry 2), the ports are the model's own fields (log entry 1). -/
def Obligations.StepRunsDecodedCommand : Prop :=
  (∀ (s : State) (w : Word) (rest : List Word) (i : Instr), s.cmds = w :: rest → decode w = .ok i →
    step s = exec i { s with cmds := rest })
  ∧ (∀ s : State, s.cmds = [] → step s = .next s)

/-- Every command, in every state, with every operand, ends in a next state: the unit never hangs and never traps
(part of 00_scope.md R10), whether it succeeds or errs. -/
def Obligations.EveryCommandEnds : Prop :=
  ∀ (i : Instr) (s : State), ∃ t, exec i s = .next t

/-- The unit accepts one command and produces exactly one response for it (part of
20_memory.md R61). The ports are the model's own fields (log entry 1). -/
def Obligations.OneResponsePerCommand : Prop :=
  ∀ (s : State) (w : Word) (rest : List Word), s.cmds = w :: rest →
    ∃ t r, step s = .next t ∧ t.cmds = rest ∧ t.rsps = s.rsps ++ [r]

/-- A run over all presented words ends after as many steps, whatever the words are: every word has been accepted, and
as many responses as words have been added (from 20_memory.md R60 and R61 and 70_reset_and_hazards.md R266; the ports and the step that
accepts a word are the model's, log entry 1). -/
def Obligations.RunAnswersEveryCommand : Prop :=
  ∀ s : State, ∃ t rs, Host.Core.run Sys2Proof.core s.cmds.length s = .next t ∧ t.cmds = []
    ∧ t.rsps = s.rsps ++ rs ∧ rs.length = s.cmds.length

/-- The effect and the responses of the first commands of a sequence do not depend on the commands that follow
(part of 20_memory.md R60; the port of pending words is the model's, log entry 1). -/
def Obligations.LaterCommandsDoNotInterfere : Prop :=
  ∀ (s t : State) (later : List Word), Host.Core.run Sys2Proof.core s.cmds.length s = .next t →
    Host.Core.run Sys2Proof.core s.cmds.length { s with cmds := s.cmds ++ later } = .next { t with cmds := later }

/-- No command reads the ports: what is pending and what was answered before, errors among it, has no influence on a
command (part of 60_exceptions.md R226, and R227, which the spec marks as derived; the ports are the model's, log
entry 1). -/
def Obligations.CommandsIgnoreThePorts : Prop :=
  ∀ (i : Instr) (s t : State) (pending answered : List Word), exec i s = .next t →
    ∃ r, t.rsps = s.rsps ++ [r] ∧ exec i { s with cmds := pending, rsps := answered }
      = .next { t with cmds := pending, rsps := answered ++ [r] }

/-! ## Errors -/

/-- R221, R222: a command word that is answered with an error changes no state, carries aux = 0 and val = 0, and its
code is one of the ten of R220. -/
def Obligations.ErrorsChangeNothing : Prop :=
  ∀ (s t : State) (w : Word) (rest : List Word), s.cmds = w :: rest → step s = .next t →
    ∃ r, t.rsps = s.rsps ++ [r]
      ∧ (rspErr r ≠ 0 → t = { s with cmds := rest, rsps := s.rsps ++ [r] } ∧ rspAux r = 0 ∧ rspVal r = 0 ∧ rspErr r ≤ 10)

/-! ## The state as a whole -/

/-- Every step keeps the invariant of the unit's state: the buffers within their capacities (R23 to R26), the unused
bits of the partial byte zero (R25), the cursor within the buffer (R26). -/
def Obligations.StepKeepsInvariant : Prop :=
  ∀ s t : State, Inv s → step s = .next t → Inv t

/-- The reset state satisfies the invariant (10_state.md R25, R38). -/
def Obligations.ResetSatisfiesInvariant : Prop := Inv State.reset

/-- R250: what hardware reset leaves. -/
def Obligations.ResetLeavesEverythingEmpty : Prop :=
  State.reset.mode = 0 ∧ State.reset.w = [] ∧ State.reset.emb = [] ∧ State.reset.pkbuf = [] ∧ State.reset.pkacc = 0
  ∧ State.reset.pknb = 0 ∧ State.reset.upbuf = [] ∧ State.reset.upcur = 0 ∧ State.reset.cmds = [] ∧ State.reset.rsps = []

/-- Each part of the state is written only by the commands that its rule names (10_state.md R22 to R26). The last
clause, that no command changes what is pending at the command port, is the model's own: the port is a field of the model
(log entry 1). -/
def Obligations.WritersOfEachPart : Prop :=
  ∀ (i : Instr) (s t : State), exec i s = .next t →
    (t.mode ≠ s.mode → i = .srst ∨ ∃ v, i = .modeSet v)
    ∧ (t.w ≠ s.w → i = .srst ∨ i = .palLdRom ∨ i = .palLdEmb ∨ i = .palLdBoot ∨ i = .palExpand ∨ i = .embDec
        ∨ i = .embDecM)
    ∧ (t.emb ≠ s.emb → i = .srst ∨ i = .embClr ∨ (∃ b, i = .embPut b) ∨ i = .embEnc ∨ i = .embEncW)
    ∧ ((t.pkbuf ≠ s.pkbuf ∨ t.pkacc ≠ s.pkacc ∨ t.pknb ≠ s.pknb) →
        i = .srst ∨ i = .pkRst ∨ (∃ v w, i = .pkWrite v w) ∨ i = .pkAlign)
    ∧ (t.upbuf ≠ s.upbuf → i = .srst ∨ i = .upRst ∨ ∃ b, i = .upPut b)
    ∧ (t.upcur ≠ s.upcur → i = .srst ∨ i = .upRst ∨ (∃ n, i = .upRead n) ∨ i = .upRew)
    ∧ t.cmds = s.cmds

/-- R40: the classifier, the Nc codec and the masking logic hold no state: they change none, and their answers depend on
the command alone, for CLS.IDX on W too. -/
def Obligations.PureCommands : Prop :=
  ∀ (i : Instr) (s s' : State),
    ((∃ r g b, i = .clsIdx r g b) ∧ s.w = s'.w ∨ (∃ nc, i = .ncEnc nc) ∨ (∃ c a b d, i = .ncDec c a b d)
      ∨ (∃ f m x y, i = .maskVal f m x y) ∨ (∃ f m x y k, i = .maskAdd f m x y k) ∨ ∃ f m x y k, i = .maskSub f m x y k) →
    ∃ r, exec i s = .next (s.putRsp r) ∧ exec i s' = .next (s'.putRsp r)

/-! ## System commands -/

/-- R210: SRST gives the reset state and one response; the ports are not the unit's state. -/
def Obligations.SoftResetGivesResetState : Prop :=
  decode 0x0100000000000000 = .ok .srst
  ∧ ∀ s : State, exec .srst s = .next { State.reset with cmds := s.cmds, rsps := s.rsps ++ [rspWord 0 0 0] }

/-- R211: CSR.RD reads the ten registers of 10_state.md R28, changes nothing, and refuses every other number. -/
def Obligations.CsrReadsScalars : Prop :=
  (∀ w : Word, w &&& 0xFF00FFFFFFFFFFFF = 0x0200000000000000 → decode w = .ok (.csrRd (w.extractLsb 55 48).toNat))
  ∧ ∀ s : State,
    exec (.csrRd 0) s = .next (s.putRsp (rspWord 0 0 s.mode.toNat))
    ∧ exec (.csrRd 1) s = .next (s.putRsp (rspWord 0 0 s.w.length))
    ∧ exec (.csrRd 2) s = .next (s.putRsp (rspWord 0 0 s.emb.length))
    ∧ exec (.csrRd 3) s = .next (s.putRsp (rspWord 0 0 s.pkbuf.length))
    ∧ exec (.csrRd 4) s = .next (s.putRsp (rspWord 0 0 s.pknb.toNat))
    ∧ exec (.csrRd 5) s = .next (s.putRsp (rspWord 0 0 s.pkacc.toNat))
    ∧ exec (.csrRd 6) s = .next (s.putRsp (rspWord 0 0 s.upbuf.length))
    ∧ exec (.csrRd 7) s = .next (s.putRsp (rspWord 0 0 s.upcur))
    ∧ exec (.csrRd 8) s = .next (s.putRsp (rspWord 0 0 Config.pkCap))
    ∧ exec (.csrRd 9) s = .next (s.putRsp (rspWord 0 0 Config.upCap))
    ∧ ∀ n, 10 ≤ n → exec (.csrRd n) s = .next (s.putRsp (rspWord 10 0 0))

/-! ## ColorMode registry -/

/-- R101: MODE.SET stores an ncValue of 1 to 7 and answers its descriptor; every other value is UnsupportedColorMode.
The descriptor's numbers rest on the pairing of ncValue and colour count, which 10_state.md R30 marks "from general
knowledge, not in source" (log entry 7). -/
def Obligations.ModeSetSelects : Prop :=
  (∀ w : Word, w &&& 0xFFFFFFFF00000000 = 0x1000000000000000 → decode w = .ok (.modeSet (w.extractLsb 31 0).toNat))
  ∧ ∀ (s : State) (v : Nat), exec (.modeSet v) s = .next
      (if 1 ≤ v ∧ v ≤ 7 then { s with mode := BitVec.ofNat 3 v }.putRsp (rspWord 0 (descriptorAux v) (descriptorVal v))
       else s.putRsp (rspWord 1 0 0))

/-- R102: MODE.BYNC answers the descriptor of an ncValue of 1 to 7 and changes nothing. The descriptor's numbers rest on
the pairing of 10_state.md R30, "from general knowledge, not in source" (log entry 7). -/
def Obligations.ModeByNcLooksUp : Prop :=
  (∀ w : Word, w &&& 0xFFFFFFFF00000000 = 0x1100000000000000 → decode w = .ok (.modeByNc (w.extractLsb 31 0).toNat))
  ∧ ∀ (s : State) (v : Nat), exec (.modeByNc v) s = .next (s.putRsp
      (if 1 ≤ v ∧ v ≤ 7 then rspWord 0 (descriptorAux v) (descriptorVal v) else rspWord 1 0 0))

/-- R103: MODE.BYCC answers the descriptor of the mode whose colour count is given, and changes nothing. Which mode that
is rests on the pairing of 10_state.md R30, "from general knowledge, not in source" (log entry 7). -/
def Obligations.ModeByCcLooksUp : Prop :=
  (∀ w : Word, w &&& 0xFFFFFFFF00000000 = 0x1200000000000000 → decode w = .ok (.modeByCc (w.extractLsb 31 0).toNat))
  ∧ (∀ (s : State) (n : Nat), 1 ≤ n → n ≤ 7 →
      exec (.modeByCc (2 ^ (n + 1))) s = .next (s.putRsp (rspWord 0 (descriptorAux n) (descriptorVal n))))
  ∧ ∀ (s : State) (v : Nat), v ∉ [4, 8, 16, 32, 64, 128, 256] →
      exec (.modeByCc v) s = .next (s.putRsp (rspWord 1 0 0))

/-- R104: the invariants of the registry. -/
def Obligations.RegistryInvariants : Prop :=
  ∀ n : ColorMode, n.bitsPerModule = Nat.clog 2 n.colorCount
    ∧ (∃ k, n.colorCount = 2 ^ k) ∧ 4 ≤ n.colorCount ∧ n.colorCount ≤ 256
    ∧ (n.interp = true ↔ 64 < n.colorCount)
    ∧ (n.colorCount ≤ 64 → n.embeddedCount = n.colorCount) ∧ (64 < n.colorCount → n.embeddedCount = 64)
    ∧ ∀ s : State, exec (.modeByCc n.colorCount) s = exec (.modeByNc n.ncValue) s

/-! ## Palette ROM -/

/-- R34: index i = (ri*ng + gi)*nb + bi of a mode's full palette is the colour of the level numbers ri, gi, bi, R outer,
G middle, B inner; the 4-colour palette is a table whose index 0 is black. -/
def Obligations.FullPaletteNesting : Prop :=
  (romFull .nc1 0 = ⟨0, 0, 0⟩ ∧ ∀ k < 4, 1 ≤ k → romFull .nc1 (BitVec.ofNat 8 k) = Config.pal4Open (BitVec.ofNat 2 k))
  ∧ (∀ ri < 2, ∀ gi < 2, ∀ bi < 2, romFull .nc2 (BitVec.ofNat 8 ((ri * 2 + gi) * 2 + bi))
      = ⟨Config.lvl2 (BitVec.ofNat 1 ri), Config.lvl2 (BitVec.ofNat 1 gi), Config.lvl2 (BitVec.ofNat 1 bi)⟩)
  ∧ (∀ ri < 4, ∀ gi < 2, ∀ bi < 2, romFull .nc3 (BitVec.ofNat 8 ((ri * 2 + gi) * 2 + bi))
      = ⟨Config.lvl4 (BitVec.ofNat 2 ri), Config.lvl2 (BitVec.ofNat 1 gi), Config.lvl2 (BitVec.ofNat 1 bi)⟩)
  ∧ (∀ ri < 4, ∀ gi < 4, ∀ bi < 2, romFull .nc4 (BitVec.ofNat 8 ((ri * 4 + gi) * 2 + bi))
      = ⟨Config.lvl4 (BitVec.ofNat 2 ri), Config.lvl4 (BitVec.ofNat 2 gi), Config.lvl2 (BitVec.ofNat 1 bi)⟩)
  ∧ (∀ ri < 4, ∀ gi < 4, ∀ bi < 4, romFull .nc5 (BitVec.ofNat 8 ((ri * 4 + gi) * 4 + bi))
      = ⟨Config.lvl4 (BitVec.ofNat 2 ri), Config.lvl4 (BitVec.ofNat 2 gi), Config.lvl4 (BitVec.ofNat 2 bi)⟩)
  ∧ (∀ ri < 8, ∀ gi < 4, ∀ bi < 4, romFull .nc6 (BitVec.ofNat 8 ((ri * 4 + gi) * 4 + bi))
      = ⟨lvl8 (BitVec.ofNat 3 ri), Config.lvl4 (BitVec.ofNat 2 gi), Config.lvl4 (BitVec.ofNat 2 bi)⟩)
  ∧ (∀ ri < 8, ∀ gi < 8, ∀ bi < 4, romFull .nc7 (BitVec.ofNat 8 ((ri * 8 + gi) * 4 + bi))
      = ⟨lvl8 (BitVec.ofNat 3 ri), lvl8 (BitVec.ofNat 3 gi), Config.lvl4 (BitVec.ofNat 2 bi)⟩)

/-- R36, with the positions of R33, both marked as derived in the spec: the embedded palette of modes 6 and 7 is a fixed
subset of the full palette. -/
def Obligations.EmbeddedPaletteIsSubset : Prop :=
  (embPos 0 = 0 ∧ embPos 1 = 2 ∧ embPos 2 = 5 ∧ embPos 3 = 7 ∧ ∀ k, emb4 k = lvl8 (embPos k))
  ∧ ∀ e < 64,
    romEmb .nc6 (BitVec.ofNat 8 e)
      = romFull .nc6 (BitVec.ofNat 8 (16 * (embPos (BitVec.ofNat 2 (e / 16))).toNat + e % 16))
    ∧ romEmb .nc7 (BitVec.ofNat 8 e)
      = romFull .nc7 (BitVec.ofNat 8
          (32 * (embPos (BitVec.ofNat 2 (e / 16))).toNat + 4 * (embPos (BitVec.ofNat 2 (e / 4 % 4))).toNat + e % 4))

/-- R117: the embedded levels 0, 73, 182, 255 expand to 0, 36, 73, 109, 145, 182, 218, 255, in order, in the R channel of
mode 6 and the R and G channels of mode 7. The spec marks R117 as derived from 10_state.md R32 to R35. -/
def Obligations.LevelsExpandInOrder : Prop :=
  (List.range 4).map (fun k => (romEmb .nc6 (BitVec.ofNat 8 (16 * k))).r.toNat) = [0, 73, 182, 255]
  ∧ (List.range 8).map (fun j => (romFull .nc6 (BitVec.ofNat 8 (16 * j))).r.toNat) = [0, 36, 73, 109, 145, 182, 218, 255]
  ∧ (List.range 4).map (fun k => (romEmb .nc7 (BitVec.ofNat 8 (16 * k))).r.toNat) = [0, 73, 182, 255]
  ∧ (List.range 8).map (fun j => (romFull .nc7 (BitVec.ofNat 8 (32 * j))).r.toNat) = [0, 36, 73, 109, 145, 182, 218, 255]
  ∧ (List.range 4).map (fun k => (romEmb .nc7 (BitVec.ofNat 8 (4 * k))).g.toNat) = [0, 73, 182, 255]
  ∧ (List.range 8).map (fun j => (romFull .nc7 (BitVec.ofNat 8 (4 * j))).g.toNat) = [0, 36, 73, 109, 145, 182, 218, 255]

/-! ## Palette commands -/

/-- R111: PAL.COLOR reads one colour of the selected mode's full palette and changes nothing. -/
def Obligations.PalColorReadsRom : Prop :=
  (∀ w : Word, w &&& 0xFFFFFFFF00000000 = 0x2000000000000000 → decode w = .ok (.palColor (w.extractLsb 31 0).toNat))
  ∧ (∀ (s : State) (i : Nat), s.mode = 0 → exec (.palColor i) s = .next (s.putRsp (rspWord 1 0 0)))
  ∧ ∀ (s : State) (n : ColorMode) (i : Nat), SelectedIs s n → exec (.palColor i) s = .next (s.putRsp
      (if i < n.colorCount then rspWord 0 0 (packRgb (romFull n (BitVec.ofNat 8 i))).toNat else rspWord 6 0 0))

/-- R112: PAL.LDROM replaces W whole by the selected mode's full palette and changes nothing else. -/
def Obligations.PalLdRomLoadsFull : Prop :=
  decode 0x2100000000000000 = .ok .palLdRom
  ∧ (∀ s : State, s.mode = 0 → exec .palLdRom s = .next (s.putRsp (rspWord 1 0 0)))
  ∧ ∀ (s : State) (n : ColorMode), SelectedIs s n → ∃ p, HoldsFullPalette p n
      ∧ exec .palLdRom s = .next ({ s with w := p }.putRsp (rspWord 0 0 n.colorCount))

/-- R113: PAL.LDEMB replaces W whole by the selected mode's embedded palette and changes nothing else; for modes 1 to 5
it does what PAL.LDROM does. -/
def Obligations.PalLdEmbLoadsEmbedded : Prop :=
  decode 0x2200000000000000 = .ok .palLdEmb
  ∧ (∀ s : State, s.mode = 0 → exec .palLdEmb s = .next (s.putRsp (rspWord 1 0 0)))
  ∧ (∀ (s : State) (n : ColorMode), SelectedIs s n → ∃ p, HoldsEmbPalette p n
      ∧ exec .palLdEmb s = .next ({ s with w := p }.putRsp (rspWord 0 0 n.embeddedCount)))
  ∧ ∀ (s : State) (n : ColorMode), SelectedIs s n → n.ncValue ≤ 5 → exec .palLdEmb s = exec .palLdRom s

/-- R114: PAL.LDBOOT replaces W by the three bootstrap colours, in every mode. -/
def Obligations.PalLdBootLoadsThree : Prop :=
  decode 0x2300000000000000 = .ok .palLdBoot
  ∧ ∀ s : State, exec .palLdBoot s
      = .next ({ s with w := [Config.bootBlack, Config.bootCyan, Config.bootYellow] }.putRsp (rspWord 0 0 3))

/-- R115: PAL.GET reads one valid entry of W as R*2^16 + G*2^8 + B and changes nothing. -/
def Obligations.PalGetReadsW : Prop :=
  (∀ w : Word, w &&& 0xFFFFFFFF00000000 = 0x2400000000000000 → decode w = .ok (.palGet (w.extractLsb 31 0).toNat))
  ∧ (∀ (s : State) (i : Nat) (h : i < s.w.length), exec (.palGet i) s = .next (s.putRsp
      (rspWord 0 0 (s.w[i].r.toNat * 65536 + s.w[i].g.toNat * 256 + s.w[i].b.toNat))))
  ∧ ∀ (s : State) (i : Nat), s.w.length ≤ i → exec (.palGet i) s = .next (s.putRsp (rspWord 6 0 0))

/-- R116: PAL.EXPAND, every case: no mode; a mode without interpolation; a wrong colour count; 64 colours that are not
the standard embedded palette; the standard embedded palette, which becomes the full palette. -/
def Obligations.PalExpandReconstructs : Prop :=
  decode 0x2500000000000000 = .ok .palExpand
  ∧ (∀ s : State, s.mode = 0 → exec .palExpand s = .next (s.putRsp (rspWord 1 0 0)))
  ∧ (∀ (s : State) (n : ColorMode), SelectedIs s n → n.interp = false →
      exec .palExpand s = .next (s.putRsp (rspWord 0 0 s.w.length)))
  ∧ (∀ (s : State) (n : ColorMode), SelectedIs s n → n.interp = true → s.w.length ≠ 64 →
      exec .palExpand s = .next (s.putRsp (rspWord 2 0 0)))
  ∧ (∀ (s : State) (n : ColorMode), SelectedIs s n → n.interp = true → s.w.length = 64 → ¬ HoldsEmbPalette s.w n →
      exec .palExpand s = .next (s.putRsp (rspWord 9 0 0)))
  ∧ ∀ (s : State) (n : ColorMode), SelectedIs s n → n.interp = true → HoldsEmbPalette s.w n →
      ∃ p, HoldsFullPalette p n ∧ exec .palExpand s = .next ({ s with w := p }.putRsp (rspWord 0 0 n.colorCount))

/-- R118: in mode 6 or 7, serialising the embedded palette, decoding it and expanding it succeeds and leaves the full
palette in W. The spec marks R118 as derived from R116, R154 and R157. -/
def Obligations.DecodePathRebuildsPalette : Prop :=
  ∀ (s : State) (n : ColorMode), SelectedIs s n → n.interp = true →
    ∃ t rs, runInstrs [.embEnc, .embDecM, .palExpand] s = .next t ∧ HoldsFullPalette t.w n
      ∧ t.rsps = s.rsps ++ rs ∧ rs.length = 3 ∧ NoErrors rs

/-! ## Embedding serializer -/

/-- R151: EMB.CLR empties EMB and changes nothing else. -/
def Obligations.EmbClrEmpties : Prop :=
  decode 0x3000000000000000 = .ok .embClr
  ∧ ∀ s : State, exec .embClr s = .next ({ s with emb := [] }.putRsp (rspWord 0 0 0))

/-- R152: EMB.PUT appends one byte to EMB, or answers BufferFull at 768 bytes; nothing else changes. -/
def Obligations.EmbPutAppends : Prop :=
  (∀ w : Word, w &&& 0xFFFFFFFFFFFFFF00 = 0x3100000000000000 → decode w = .ok (.embPut (w.extractLsb 7 0)))
  ∧ ∀ (s : State) (b : Byte), exec (.embPut b) s = .next
      (if s.emb.length < 768 then { s with emb := s.emb ++ [b] }.putRsp (rspWord 0 0 (s.emb.length + 1))
       else s.putRsp (rspWord 8 0 0))

/-- R153: EMB.GET reads one valid byte of EMB and changes nothing. -/
def Obligations.EmbGetReadsEmb : Prop :=
  (∀ w : Word, w &&& 0xFFFFFFFF00000000 = 0x3200000000000000 → decode w = .ok (.embGet (w.extractLsb 31 0).toNat))
  ∧ (∀ (s : State) (i : Nat) (h : i < s.emb.length), exec (.embGet i) s = .next (s.putRsp (rspWord 0 0 s.emb[i].toNat)))
  ∧ ∀ (s : State) (i : Nat), s.emb.length ≤ i → exec (.embGet i) s = .next (s.putRsp (rspWord 6 0 0))

/-- R154: EMB.ENC replaces EMB whole by the serialised embedded palette of the selected mode and changes nothing else. -/
def Obligations.EmbEncSerialisesEmbedded : Prop :=
  decode 0x3300000000000000 = .ok .embEnc
  ∧ (∀ s : State, s.mode = 0 → exec .embEnc s = .next (s.putRsp (rspWord 1 0 0)))
  ∧ ∀ (s : State) (n : ColorMode), SelectedIs s n → ∃ p y, HoldsEmbPalette p n ∧ Serialises y p
      ∧ exec .embEnc s = .next ({ s with emb := y }.putRsp (rspWord 0 0 (3 * n.embeddedCount)))

/-- R155: EMB.ENCW replaces EMB whole by the serialised working palette and changes nothing else. -/
def Obligations.EmbEncWSerialisesW : Prop :=
  decode 0x3400000000000000 = .ok .embEncW
  ∧ ∀ s : State, ∃ y, Serialises y s.w
      ∧ exec .embEncW s = .next ({ s with emb := y }.putRsp (rspWord 0 0 (3 * s.w.length)))

/-- R156: EMB.DEC replaces W whole by the colours that EMB serialises, when its length is a multiple of 3; EMB is kept. -/
def Obligations.EmbDecDecodes : Prop :=
  decode 0x3500000000000000 = .ok .embDec
  ∧ (∀ s : State, s.emb.length % 3 ≠ 0 → exec .embDec s = .next (s.putRsp (rspWord 2 0 0)))
  ∧ ∀ s : State, s.emb.length % 3 = 0 → ∃ p, Serialises s.emb p
      ∧ exec .embDec s = .next ({ s with w := p }.putRsp (rspWord 0 0 (s.emb.length / 3)))

/-- R157: EMB.DECM does the same when the length is the selected mode's, and checks the mode first. -/
def Obligations.EmbDecMChecksMode : Prop :=
  decode 0x3600000000000000 = .ok .embDecM
  ∧ (∀ s : State, s.mode = 0 → exec .embDecM s = .next (s.putRsp (rspWord 1 0 0)))
  ∧ (∀ (s : State) (n : ColorMode), SelectedIs s n → s.emb.length ≠ 3 * n.embeddedCount →
      exec .embDecM s = .next (s.putRsp (rspWord 2 0 0)))
  ∧ ∀ (s : State) (n : ColorMode), SelectedIs s n → s.emb.length = 3 * n.embeddedCount → ∃ p, Serialises s.emb p
      ∧ exec .embDecM s = .next ({ s with w := p }.putRsp (rspWord 0 0 n.embeddedCount))

/-- R158: the three round trips of the serializer, each with all responses a success. The spec marks R158 as derived from
R150 and R154 to R157. -/
def Obligations.SerializerRoundTrips : Prop :=
  (∀ s : State, ∃ t rs, runInstrs [.embEncW, .embDec] s = .next t ∧ t.w = s.w
      ∧ t.rsps = s.rsps ++ rs ∧ rs.length = 2 ∧ NoErrors rs)
  ∧ (∀ (s : State) (n : ColorMode), SelectedIs s n → ∀ d ∈ [Instr.embDec, .embDecM],
      ∃ t u rs, runInstrs [.embEnc, d] s = .next t ∧ HoldsEmbPalette t.w n ∧ t.rsps = s.rsps ++ rs ∧ rs.length = 2
        ∧ NoErrors rs ∧ exec .palLdEmb s = .next u ∧ u.w = t.w)
  ∧ ∀ s : State, s.emb.length % 3 = 0 → ∃ t rs, runInstrs [.embDec, .embEncW] s = .next t ∧ t.emb = s.emb
      ∧ t.rsps = s.rsps ++ rs ∧ rs.length = 2 ∧ NoErrors rs

/-! ## Classifier -/

/-- R130: CLS.IDX answers the least index whose colour is nearest, and its squared distance; it changes nothing. -/
def Obligations.ClassifierFindsNearest : Prop :=
  (∀ w : Word, w &&& 0xFFFFFFFFFF000000 = 0x4000000000000000 →
      decode w = .ok (.clsIdx (w.extractLsb 23 16) (w.extractLsb 15 8) (w.extractLsb 7 0)))
  ∧ (∀ p q : Rgb, (colorDist p q : Int) = ((p.r.toNat : Int) - q.r.toNat) ^ 2 + ((p.g.toNat : Int) - q.g.toNat) ^ 2
        + ((p.b.toNat : Int) - q.b.toNat) ^ 2 ∧ colorDist p q ≤ 195075)
  ∧ (∀ (s : State) (r g b : Byte), s.w = [] → exec (.clsIdx r g b) s = .next (s.putRsp (rspWord 2 0 0)))
  ∧ ∀ (s : State) (r g b : Byte), s.w ≠ [] → ∃ (k : Nat) (h : k < s.w.length),
      (∀ (j : Nat) (hj : j < s.w.length), colorDist ⟨r, g, b⟩ s.w[k] ≤ colorDist ⟨r, g, b⟩ s.w[j])
      ∧ (∀ (j : Nat) (hj : j < k), colorDist ⟨r, g, b⟩ s.w[k] < colorDist ⟨r, g, b⟩ (s.w[j]'(hj.trans h)))
      ∧ exec (.clsIdx r g b) s = .next (s.putRsp (rspWord 0 (colorDist ⟨r, g, b⟩ s.w[k]) k))

/-- R132: over pairwise different entries an entry's own colour is answered with its index and distance 0; and the full
palettes have pairwise different entries when the level tables, and for mode 1 the four colours, are different. The spec marks
R132 as derived from R130. -/
def Obligations.ClassifierExactMatch : Prop :=
  (∀ (s : State) (k : Nat) (h : k < s.w.length), s.w.Nodup →
      exec (.clsIdx s.w[k].r s.w[k].g s.w[k].b) s = .next (s.putRsp (rspWord 0 0 k)))
  ∧ (Function.Injective pal4 → (fullPalette .nc1).Nodup)
  ∧ (Function.Injective Config.lvl2 → Function.Injective Config.lvl4 → ∀ n : ColorMode, n ≠ .nc1 → (fullPalette n).Nodup)

/-! ## Nc codec -/

/-- R141: NC.ENC answers the three bits of its operand as indices, bit 2 first; it changes nothing. -/
def Obligations.NcEncSplitsBits : Prop :=
  (∀ w : Word, w &&& 0xFFFFFFFFFFFFFFF8 = 0x5000000000000000 → decode w = .ok (.ncEnc (w.extractLsb 2 0)))
  ∧ ∀ (s : State) (nc : BitVec 3), exec (.ncEnc nc) s = .next (s.putRsp
      (rspWord 0 0 (16 * (nc.toNat / 4) + 4 * (nc.toNat / 2 % 2) + nc.toNat % 2)))

/-- R142: NC.DEC checks the count, then the indices, and answers the number of the three bits; it changes nothing. -/
def Obligations.NcDecJoinsBits : Prop :=
  (∀ w : Word, w &&& 0xFF00FFFFFFFFFFC0 = 0x5100000000000000 → decode w = .ok (.ncDec (w.extractLsb 55 48).toNat
      (w.extractLsb 5 4).toNat (w.extractLsb 3 2).toNat (w.extractLsb 1 0).toNat))
  ∧ ∀ (s : State) (cnt i0 i1 i2 : Nat), exec (.ncDec cnt i0 i1 i2) s = .next (s.putRsp
      (if cnt ≠ 3 then rspWord 3 0 0
       else if 1 < i0 ∨ 1 < i1 ∨ 1 < i2 then rspWord 7 0 0
       else rspWord 0 0 (i0 <<< 2 ||| i1 <<< 1 ||| i2)))

/-- R143: the word 0x5103000000000000 + v, for the val v that NC.ENC answers for nc, decodes back to nc. The spec
marks R143 as derived from R141 and R142. -/
def Obligations.NcRoundTrip : Prop :=
  ∀ (s s' : State) (nc : BitVec 3), ∃ v i, answer (exec (.ncEnc nc) s) = some (0, 0, v)
    ∧ decode (0x5103000000000000 + BitVec.ofNat 64 v) = .ok i ∧ answer (exec i s') = some (0, 0, nc.toNat)

/-! ## Masking -/

/-- R170: the eight mask functions, and the largest inner sum of each for 12-bit coordinates. The last clause, the range of
every mask value, is R171, which the spec marks as derived from R170. -/
def Obligations.MaskFunctions : Prop :=
  (∀ x y m : Nat, maskAt x y 0 m = (x + y) % m ∧ maskAt x y 1 m = x % m ∧ maskAt x y 2 m = y % m
    ∧ maskAt x y 3 m = (x / 2 + y / 3) % m ∧ maskAt x y 4 m = (x / 3 + y / 2) % m
    ∧ maskAt x y 5 m = ((x + y) / 2 + (x + y) / 3) % m
    ∧ maskAt x y 6 m = ((x * x * y) % 7 + (2 * x * x + 2 * y) % 19) % m
    ∧ maskAt x y 7 m = ((x * y * y) % 5 + (2 * x + y * y) % 13) % m)
  ∧ (∀ x ≤ 4095, ∀ y ≤ 4095, maskSum 0 x y ≤ 8190 ∧ maskSum 1 x y ≤ 4095 ∧ maskSum 2 x y ≤ 4095 ∧ maskSum 3 x y ≤ 3412
    ∧ maskSum 4 x y ≤ 3412 ∧ maskSum 5 x y ≤ 6825 ∧ maskSum 6 x y ≤ 24 ∧ maskSum 7 x y ≤ 16 ∧ x * x * y ≤ 68669157375)
  ∧ ∀ (x y m : Nat) (ref : BitVec 3), 1 ≤ m → maskAt x y ref m < m

/-- R172: MASK.VAL answers the mask value for a positive modulus; it changes nothing. -/
def Obligations.MaskValAnswers : Prop :=
  (∀ w : Word, w &&& 0xFFF80000000000FF = 0x6000000000000000 → decode w = .ok (.maskVal (w.extractLsb 50 48)
      (w.extractLsb 47 32).toInt (w.extractLsb 31 20).toNat (w.extractLsb 19 8).toNat))
  ∧ ∀ (s : State) (ref : BitVec 3) (m : Int) (x y : Nat), exec (.maskVal ref m x y) s = .next (s.putRsp
      (if m ≤ 0 then rspWord 5 0 0 else rspWord 0 0 (maskAt x y ref m.toNat)))

/-- R173: MASK.ADD answers (idx + k) mod m and the mask value k; it changes nothing. -/
def Obligations.MaskAddAnswers : Prop :=
  (∀ w : Word, w &&& 0xFFF8000000000000 = 0x6100000000000000 → decode w = .ok (.maskAdd (w.extractLsb 50 48)
      (w.extractLsb 47 32).toInt (w.extractLsb 31 20).toNat (w.extractLsb 19 8).toNat (w.extractLsb 7 0).toNat))
  ∧ ∀ (s : State) (ref : BitVec 3) (m : Int) (x y idx : Nat), exec (.maskAdd ref m x y idx) s = .next (s.putRsp
      (if m ≤ 0 then rspWord 5 0 0
       else rspWord 0 (maskAt x y ref m.toNat) ((idx + maskAt x y ref m.toNat) % m.toNat)))

/-- R174: MASK.SUB answers the one number below m that is (idx - k) modulo m, and the mask value k; it changes nothing. -/
def Obligations.MaskSubAnswers : Prop :=
  (∀ w : Word, w &&& 0xFFF8000000000000 = 0x6200000000000000 → decode w = .ok (.maskSub (w.extractLsb 50 48)
      (w.extractLsb 47 32).toInt (w.extractLsb 31 20).toNat (w.extractLsb 19 8).toNat (w.extractLsb 7 0).toNat))
  ∧ (∀ (s : State) (ref : BitVec 3) (m : Int) (x y idx : Nat), m ≤ 0 →
      exec (.maskSub ref m x y idx) s = .next (s.putRsp (rspWord 5 0 0)))
  ∧ ∀ (s : State) (ref : BitVec 3) (m x y idx : Nat), 1 ≤ m → ∃ v < m, (v + maskAt x y ref m) % m = idx % m
      ∧ exec (.maskSub ref m x y idx) s = .next (s.putRsp (rspWord 0 (maskAt x y ref m) v))

/-- R175: MASK.SUB undoes MASK.ADD and the other way round, for indices below the modulus that fit their field; MASK.ADD
twice does not. The spec marks R175 as derived from R173 and R174. -/
def Obligations.MaskRoundTrip : Prop :=
  (∀ (s s' : State) (ref : BitVec 3) (m x y idx k v : Nat), 1 ≤ m → m ≤ 32767 → idx < m → idx ≤ 255 → v ≤ 255 →
      (answer (exec (.maskAdd ref m x y idx) s) = some (0, k, v) →
        answer (exec (.maskSub ref m x y v) s') = some (0, k, idx))
      ∧ (answer (exec (.maskSub ref m x y idx) s) = some (0, k, v) →
        answer (exec (.maskAdd ref m x y v) s') = some (0, k, idx)))
  ∧ (∀ (s : State) (ref : BitVec 3) (m x y idx : Nat), 1 ≤ m → m ≤ 256 → idx < m →
      (∃ k, ∃ v ≤ 255, answer (exec (.maskAdd ref m x y idx) s) = some (0, k, v))
      ∧ ∃ k, ∃ v ≤ 255, answer (exec (.maskSub ref m x y idx) s) = some (0, k, v))
  ∧ ∀ s : State, answer (exec (.maskAdd 1 8 3 0 6) s) = some (0, 3, 1) ∧ answer (exec (.maskAdd 1 8 3 0 1) s) = some (0, 3, 4)

/-! ## Packer -/

/-- R191 and R196: PK.RST empties the packer, pending bits included, UP.RST empties the unpacker, and each changes nothing
else. -/
def Obligations.PkRstAndUpRstEmpty : Prop :=
  decode 0x7000000000000000 = .ok .pkRst
  ∧ (∀ s : State, exec .pkRst s = .next ({ s with pkbuf := [], pkacc := 0, pknb := 0 }.putRsp (rspWord 0 0 0)))
  ∧ decode 0x7800000000000000 = .ok .upRst
  ∧ ∀ s : State, exec .upRst s = .next ({ s with upbuf := [], upcur := 0 }.putRsp (rspWord 0 0 0))

/-- R192: PK.WRITE, its two errors and its closed form: with p pending bits and T the number of the pending bits followed
by the w low bits of v, t = p + w bits in all, t div 8 bytes of T are appended and the t mod 8 bits left are pending. -/
def Obligations.PkWriteClosedForm : Prop :=
  (∀ x : Word, x &&& 0xFF00FFFF00000000 = 0x7100000000000000 →
      decode x = .ok (.pkWrite (x.extractLsb 31 0) (x.extractLsb 55 48).toInt))
  ∧ (∀ (s : State) (v : BitVec 32) (w : Int), w < 1 ∨ 32 < w →
      exec (.pkWrite v w) s = .next (s.putRsp (rspWord 4 0 0)))
  ∧ (∀ (s : State) (v : BitVec 32) (w : Nat), 1 ≤ w → w ≤ 32 →
      Config.pkCap < s.pkbuf.length + (s.pknb.toNat + w) / 8 →
      exec (.pkWrite v w) s = .next (s.putRsp (rspWord 8 0 0)))
  ∧ ∀ (s : State) (v : BitVec 32) (w T t : Nat), PackerAligned s → 1 ≤ w → w ≤ 32 →
      s.pkbuf.length + (s.pknb.toNat + w) / 8 ≤ Config.pkCap →
      T = s.pkacc.toNat / 2 ^ (8 - s.pknb.toNat) * 2 ^ w + v.toNat % 2 ^ w → t = s.pknb.toNat + w →
      exec (.pkWrite v w) s = .next ({ s with
          pkbuf := s.pkbuf ++ (List.range (t / 8)).map (fun j => BitVec.ofNat 8 (T / 2 ^ (t - 8 * (j + 1)))),
          pkacc := BitVec.ofNat 8 (T % 2 ^ (t % 8) * 2 ^ (8 - t % 8)),
          pknb := BitVec.ofNat 3 (t % 8) }.putRsp (rspWord 0 (t % 8) (s.pkbuf.length + t / 8)))

/-- R193: PK.ALIGN does nothing without pending bits, flushes the zero-padded partial byte otherwise, and answers
BufferFull when there is no room for it. -/
def Obligations.PkAlignFlushes : Prop :=
  decode 0x7200000000000000 = .ok .pkAlign
  ∧ ∀ s : State, exec .pkAlign s = .next
      (if s.pknb = 0 then s.putRsp (rspWord 0 0 s.pkbuf.length)
       else if s.pkbuf.length < Config.pkCap then
         { s with pkbuf := s.pkbuf ++ [s.pkacc], pkacc := 0, pknb := 0 }.putRsp (rspWord 0 0 (s.pkbuf.length + 1))
       else s.putRsp (rspWord 8 0 0))

/-- R194: PK.GET reads one completed byte and changes nothing. -/
def Obligations.PkGetReadsCompleted : Prop :=
  (∀ w : Word, w &&& 0xFFFFFFFF00000000 = 0x7300000000000000 → decode w = .ok (.pkGet (w.extractLsb 31 0).toNat))
  ∧ (∀ (s : State) (i : Nat) (h : i < s.pkbuf.length), exec (.pkGet i) s = .next (s.putRsp (rspWord 0 0 s.pkbuf[i].toNat)))
  ∧ ∀ (s : State) (i : Nat), s.pkbuf.length ≤ i → exec (.pkGet i) s = .next (s.putRsp (rspWord 6 0 0))

/-- R190: a successful PK.WRITE appends its bits to the packer's logical bit stream, and no command but PK.RST and SRST
removes anything from it. -/
def Obligations.PackerStreamGrows : Prop :=
  (∀ s : State, (packerStream s).length = 8 * s.pkbuf.length + s.pknb.toNat)
  ∧ (∀ (s : State) (v : BitVec 32) (w : Nat), 1 ≤ w → w ≤ 32 →
      s.pkbuf.length + (s.pknb.toNat + w) / 8 ≤ Config.pkCap →
      ∃ t, exec (.pkWrite v w) s = .next t ∧ packerStream t = packerStream s ++ valueBits v w)
  ∧ ∀ (i : Instr) (s t : State), exec i s = .next t → i ≠ .pkRst → i ≠ .srst → packerStream s <+: packerStream t

/-! ## Unpacker -/

/-- R197: UP.PUT appends one byte to UPBUF, or answers BufferFull; the cursor does not move, nothing else changes. -/
def Obligations.UpPutAppends : Prop :=
  (∀ w : Word, w &&& 0xFFFFFFFFFFFFFF00 = 0x7900000000000000 → decode w = .ok (.upPut (w.extractLsb 7 0)))
  ∧ ∀ (s : State) (b : Byte), exec (.upPut b) s = .next
      (if s.upbuf.length < Config.upCap then { s with upbuf := s.upbuf ++ [b] }.putRsp (rspWord 0 0 (s.upbuf.length + 1))
       else s.putRsp (rspWord 8 0 0))

/-- R198: UP.READ answers the next n bits, the first one the most significant, zeros for positions past the end; the
cursor moves by n and stops at the end; nothing else changes. -/
def Obligations.UpReadNextBits : Prop :=
  (∀ w : Word, w &&& 0xFF00FFFFFFFFFFFF = 0x7A00000000000000 → decode w = .ok (.upRead (w.extractLsb 55 48).toInt))
  ∧ (∀ (s : State) (n : Int), n < 1 ∨ 32 < n → exec (.upRead n) s = .next (s.putRsp (rspWord 4 0 0)))
  ∧ ∀ (s : State) (n : Nat), 1 ≤ n → n ≤ 32 → ∃ r < 2 ^ n,
      (∀ k < n, r.testBit (n - 1 - k) = (decide (s.upcur + k < 8 * s.upbuf.length)
        && (s.upbuf.getD ((s.upcur + k) / 8) 0).getLsbD (7 - (s.upcur + k) % 8)))
      ∧ exec (.upRead n) s = .next ({ s with upcur := min (s.upcur + n) (8 * s.upbuf.length) }.putRsp (rspWord 0 0 r))

/-- R199 and R200: UP.MORE answers whether a bit is left and changes nothing; UP.REW moves the cursor to bit 0 and changes
nothing else. -/
def Obligations.UpMoreTellsAndUpRewRewinds : Prop :=
  decode 0x7B00000000000000 = .ok .upMore
  ∧ (∀ s : State, exec .upMore s = .next (s.putRsp (rspWord 0 0 (if s.upcur < 8 * s.upbuf.length then 1 else 0))))
  ∧ decode 0x7C00000000000000 = .ok .upRew
  ∧ ∀ s : State, exec .upRew s = .next ({ s with upcur := 0 }.putRsp (rspWord 0 0 0))

/-! ## Packer and unpacker together -/

/-- R201: values written to an empty packer at widths of 1 to 32, aligned, put byte by byte into a new unpacker and read
back at the same widths come back reduced to their widths, and 0 to 7 zero bits are left. The capacities are large enough
for every command to succeed, and every one does. The spec marks R201 as derived from R192, R193 and R198. -/
def Obligations.BitStreamRoundTrip : Prop :=
  ∀ (ws : List (BitVec 32 × Nat)) (s : State), s.pkbuf = [] → s.pknb = 0 → s.pkacc = 0 → (∀ p ∈ ws, 1 ≤ p.2 ∧ p.2 ≤ 32) →
    (ws.map Prod.snd).sum ≤ 8 * Config.pkCap → (ws.map Prod.snd).sum ≤ 8 * Config.upCap →
    ∃ t u packed pre, runInstrs (ws.map (fun p => .pkWrite p.1 p.2) ++ [.pkAlign]) s = .next t
      ∧ t.rsps = s.rsps ++ packed ∧ packed.length = ws.length + 1 ∧ NoErrors packed
      ∧ runInstrs (.upRst :: t.pkbuf.map .upPut ++ ws.map (fun p => .upRead p.2)) t = .next u
      ∧ u.rsps = t.rsps ++ pre ++ ws.map (fun p => rspWord 0 0 (p.1.toNat % 2 ^ p.2)) ∧ pre.length = t.pkbuf.length + 1
      ∧ NoErrors pre ∧ u.upcur ≤ 8 * u.upbuf.length ∧ 8 * u.upbuf.length - u.upcur < 8
      ∧ readBits u.upbuf u.upcur (8 * u.upbuf.length - u.upcur) = 0

/-- R202: what a packer holds depends on the bit sequence written, not on how it was cut into writes: a write is the same
as its bits one at a time, and as two writes of its high and low parts; and reads that stay inside the buffer can be cut in
two, and so, again and again, into single bits. The spec marks R202 as derived from R192 and R198. -/
def Obligations.WidthIndependence : Prop :=
  (∀ (s : State) (v : BitVec 32) (w : Nat), 1 ≤ w → w ≤ 32 → s.pkbuf.length + (s.pknb.toNat + w) / 8 ≤ Config.pkCap →
      ∃ t u, exec (.pkWrite v w) s = .next t ∧ runInstrs (bitWrites v w) s = .next u ∧ SameUnit t u)
  ∧ (∀ (s : State) (v : BitVec 32) (w j : Nat), 0 < j → j < w → w ≤ 32 →
      s.pkbuf.length + (s.pknb.toNat + w) / 8 ≤ Config.pkCap →
      ∃ t u, exec (.pkWrite v w) s = .next t
        ∧ runInstrs [.pkWrite (v >>> j) ((w - j : Nat) : Int), .pkWrite (BitVec.ofNat 32 (v.toNat % 2 ^ j)) j] s = .next u
        ∧ SameUnit t u)
  ∧ ∀ (s : State) (n j : Nat), 0 < j → j < n → n ≤ 32 → s.upcur + n ≤ 8 * s.upbuf.length →
      ∃ t u hi lo, exec (.upRead n) s = .next t ∧ runInstrs [.upRead ((n - j : Nat) : Int), .upRead j] s = .next u
        ∧ u.rsps = s.rsps ++ [rspWord 0 0 hi, rspWord 0 0 lo] ∧ lo < 2 ^ j
        ∧ t.rsps = s.rsps ++ [rspWord 0 0 (hi * 2 ^ j + lo)] ∧ SameUnit t u
end

