-- ==== Sys2Proof/Laws/Decode.lean ====
section
/-! SUPPORT. The fields of a command word built from its fields, and the decoder read through the opcode map. -/

namespace Sys2Proof

/-! ## Fields of a word -/

theorem cmdWord_toNat (op f : BitVec 8) (c : BitVec 16) (a : BitVec 32) :
    (cmdWord op f c a).toNat = op.toNat * 2 ^ 56 + f.toNat * 2 ^ 48 + c.toNat * 2 ^ 32 + a.toNat := by
  have key : ∀ {m n : Nat} (x : BitVec m) (y : BitVec n), (x ++ y).toNat = x.toNat * 2 ^ n + y.toNat := by
    intro m n x y
    rw [BitVec.toNat_append, ← Nat.shiftLeft_add_eq_or_of_lt y.isLt, Nat.shiftLeft_eq]
  simp only [cmdWord, key]
  omega

@[simp] theorem fieldOp_cmdWord (op f : BitVec 8) (c : BitVec 16) (a : BitVec 32) : fieldOp (cmdWord op f c a) = op := by
  apply BitVec.eq_of_toNat_eq
  have hf := f.isLt; have hc := c.isLt; have ha := a.isLt; have hop := op.isLt
  rw [fieldOp, BitVec.extractLsb_toNat, cmdWord_toNat, Nat.shiftRight_eq_div_pow]
  omega

@[simp] theorem fieldF_cmdWord (op f : BitVec 8) (c : BitVec 16) (a : BitVec 32) : fieldF (cmdWord op f c a) = f := by
  apply BitVec.eq_of_toNat_eq
  have hf := f.isLt; have hc := c.isLt; have ha := a.isLt
  rw [fieldF, BitVec.extractLsb_toNat, cmdWord_toNat, Nat.shiftRight_eq_div_pow]
  omega

@[simp] theorem fieldC_cmdWord (op f : BitVec 8) (c : BitVec 16) (a : BitVec 32) : fieldC (cmdWord op f c a) = c := by
  apply BitVec.eq_of_toNat_eq
  have hc := c.isLt; have ha := a.isLt
  rw [fieldC, BitVec.extractLsb_toNat, cmdWord_toNat, Nat.shiftRight_eq_div_pow]
  omega

@[simp] theorem fieldA_cmdWord (op f : BitVec 8) (c : BitVec 16) (a : BitVec 32) : fieldA (cmdWord op f c a) = a := by
  apply BitVec.eq_of_toNat_eq
  have ha := a.isLt
  rw [fieldA, BitVec.extractLsb_toNat, cmdWord_toNat, Nat.shiftRight_eq_div_pow]
  omega

/-- A word is its four fields (30_encoding.md R70). -/
theorem cmdWord_fields (w : Word) : cmdWord (fieldOp w) (fieldF w) (fieldC w) (fieldA w) = w := by
  apply BitVec.eq_of_toNat_eq
  have hw := w.isLt
  rw [cmdWord_toNat]
  simp only [fieldOp, fieldF, fieldC, fieldA, BitVec.extractLsb_toNat, Nat.shiftRight_eq_div_pow]
  omega

theorem cmdWord_inj {op f op' f' : BitVec 8} {c c' : BitVec 16} {a a' : BitVec 32} :
    cmdWord op f c a = cmdWord op' f' c' a' ↔ op = op' ∧ f = f' ∧ c = c' ∧ a = a' := by
  constructor
  · intro h
    have h1 := congrArg fieldOp h
    have h2 := congrArg fieldF h
    have h3 := congrArg fieldC h
    have h4 := congrArg fieldA h
    simp only [fieldOp_cmdWord, fieldF_cmdWord, fieldC_cmdWord, fieldA_cmdWord] at h1 h2 h3 h4
    exact ⟨h1, h2, h3, h4⟩
  · rintro ⟨rfl, rfl, rfl, rfl⟩; rfl

theorem fieldOp_and (w m : Word) : fieldOp (w &&& m) = fieldOp w &&& fieldOp m := BitVec.extractLsb_and
theorem fieldF_and (w m : Word) : fieldF (w &&& m) = fieldF w &&& fieldF m := BitVec.extractLsb_and
theorem fieldC_and (w m : Word) : fieldC (w &&& m) = fieldC w &&& fieldC m := BitVec.extractLsb_and
theorem fieldA_and (w m : Word) : fieldA (w &&& m) = fieldA w &&& fieldA m := BitVec.extractLsb_and

/-- Two words are masked field by field. -/
theorem cmdWord_and (op f op' f' : BitVec 8) (c c' : BitVec 16) (a a' : BitVec 32) :
    cmdWord op f c a &&& cmdWord op' f' c' a' = cmdWord (op &&& op') (f &&& f') (c &&& c') (a &&& a') := by
  rw [← cmdWord_fields (cmdWord op f c a &&& cmdWord op' f' c' a')]
  simp only [fieldOp_and, fieldF_and, fieldC_and, fieldA_and, fieldOp_cmdWord, fieldF_cmdWord, fieldC_cmdWord,
    fieldA_cmdWord]

/-! ## The opcode map -/

/-- A row constrains the whole opcode: its mask covers op, and its match word holds the row's opcode (R75). -/
def Row.coversOp (row : Row) : Bool := fieldOp row.mask == 0xFF && fieldOp row.fixed == row.op

theorem rows_coverOp : ∀ row ∈ rows, row.coversOp = true := by decide

/-- The opcodes of the map are pairwise different (R75). -/
theorem rows_opcodes_nodup : (rows.map Row.op).Nodup := by decide

/-- A word that fits a row holds the row's opcode. -/
theorem fieldOp_of_fits {row : Row} (h : row ∈ rows) {w : Word} (hw : w &&& row.mask = row.fixed) : fieldOp w = row.op := by
  have hc := rows_coverOp row h
  simp only [Row.coversOp, Bool.and_eq_true, beq_iff_eq] at hc
  have h1 : fieldOp (w &&& row.mask) = fieldOp w &&& fieldOp row.mask := fieldOp_and w row.mask
  rw [hw, hc.1, hc.2] at h1
  rw [h1]
  exact (BitVec.and_allOnes (x := fieldOp w)).symm

/-- The row that the decoder finds for an opcode of the map is the only one with that opcode. -/
theorem find_row {row : Row} (h : row ∈ rows) {w : Word} (hop : fieldOp w = row.op) :
    rows.find? (fun r => r.op == fieldOp w) = some row := by
  have key : ∀ (l : List Row), (l.map Row.op).Nodup → row ∈ l → l.find? (fun r => r.op == row.op) = some row := by
    intro l hl hm
    induction l with
    | nil => cases hm
    | cons a l ih =>
      simp only [List.map_cons, List.nodup_cons] at hl
      rcases List.mem_cons.mp hm with rfl | hm
      · simp
      · have hne : a.op ≠ row.op := fun he => hl.1 (he ▸ List.mem_map_of_mem hm)
        rw [List.find?_cons_of_neg (by simpa using hne)]
        exact ih hl.2 hm
  rw [hop]
  exact key rows rows_opcodes_nodup h

/-- A word that fits a row of the map decodes to the row's command (R76). -/
theorem decode_of_fits {row : Row} (h : row ∈ rows) {w : Word} (hw : w &&& row.mask = row.fixed) :
    decode w = .ok (row.build w) := by
  rw [decode, find_row h (fieldOp_of_fits h hw)]
  exact if_pos hw

/-- A decoded word fits a row of the map, and its command is the row's (R76). -/
theorem fits_of_decode {w : Word} {i : Instr} (h : decode w = .ok i) :
    ∃ row ∈ rows, w &&& row.mask = row.fixed ∧ i = row.build w := by
  rw [decode] at h
  cases hf : rows.find? (fun r => r.op == fieldOp w) with
  | none => rw [hf] at h; cases h
  | some row =>
    rw [hf] at h
    simp only at h
    split at h
    · exact ⟨row, List.mem_of_find?_eq_some hf, ‹_›, by injection h with h; exact h.symm⟩
    · cases h

end Sys2Proof
end

