-- ==== Sys2Proof/Laws/State.lean ====
section
/-! SUPPORT. What each update of the state leaves in each field: one lemma per field per update, true by rfl. -/

namespace Sys2Proof.Machine

/-! ## State.setMode -/

@[simp] theorem State.setMode_mode (s : State) (n : BitVec 3) : (s.setMode n).mode = n := rfl
@[simp] theorem State.setMode_w (s : State) (n : BitVec 3) : (s.setMode n).w = s.w := rfl
@[simp] theorem State.setMode_emb (s : State) (n : BitVec 3) : (s.setMode n).emb = s.emb := rfl
@[simp] theorem State.setMode_pkbuf (s : State) (n : BitVec 3) : (s.setMode n).pkbuf = s.pkbuf := rfl
@[simp] theorem State.setMode_pkacc (s : State) (n : BitVec 3) : (s.setMode n).pkacc = s.pkacc := rfl
@[simp] theorem State.setMode_pknb (s : State) (n : BitVec 3) : (s.setMode n).pknb = s.pknb := rfl
@[simp] theorem State.setMode_upbuf (s : State) (n : BitVec 3) : (s.setMode n).upbuf = s.upbuf := rfl
@[simp] theorem State.setMode_upcur (s : State) (n : BitVec 3) : (s.setMode n).upcur = s.upcur := rfl
@[simp] theorem State.setMode_cmds (s : State) (n : BitVec 3) : (s.setMode n).cmds = s.cmds := rfl
@[simp] theorem State.setMode_rsps (s : State) (n : BitVec 3) : (s.setMode n).rsps = s.rsps := rfl

/-! ## State.setW -/

@[simp] theorem State.setW_mode (s : State) (p : List Rgb) : (s.setW p).mode = s.mode := rfl
@[simp] theorem State.setW_w (s : State) (p : List Rgb) : (s.setW p).w = p := rfl
@[simp] theorem State.setW_emb (s : State) (p : List Rgb) : (s.setW p).emb = s.emb := rfl
@[simp] theorem State.setW_pkbuf (s : State) (p : List Rgb) : (s.setW p).pkbuf = s.pkbuf := rfl
@[simp] theorem State.setW_pkacc (s : State) (p : List Rgb) : (s.setW p).pkacc = s.pkacc := rfl
@[simp] theorem State.setW_pknb (s : State) (p : List Rgb) : (s.setW p).pknb = s.pknb := rfl
@[simp] theorem State.setW_upbuf (s : State) (p : List Rgb) : (s.setW p).upbuf = s.upbuf := rfl
@[simp] theorem State.setW_upcur (s : State) (p : List Rgb) : (s.setW p).upcur = s.upcur := rfl
@[simp] theorem State.setW_cmds (s : State) (p : List Rgb) : (s.setW p).cmds = s.cmds := rfl
@[simp] theorem State.setW_rsps (s : State) (p : List Rgb) : (s.setW p).rsps = s.rsps := rfl

/-! ## State.setEmb -/

@[simp] theorem State.setEmb_mode (s : State) (b : List Byte) : (s.setEmb b).mode = s.mode := rfl
@[simp] theorem State.setEmb_w (s : State) (b : List Byte) : (s.setEmb b).w = s.w := rfl
@[simp] theorem State.setEmb_emb (s : State) (b : List Byte) : (s.setEmb b).emb = b := rfl
@[simp] theorem State.setEmb_pkbuf (s : State) (b : List Byte) : (s.setEmb b).pkbuf = s.pkbuf := rfl
@[simp] theorem State.setEmb_pkacc (s : State) (b : List Byte) : (s.setEmb b).pkacc = s.pkacc := rfl
@[simp] theorem State.setEmb_pknb (s : State) (b : List Byte) : (s.setEmb b).pknb = s.pknb := rfl
@[simp] theorem State.setEmb_upbuf (s : State) (b : List Byte) : (s.setEmb b).upbuf = s.upbuf := rfl
@[simp] theorem State.setEmb_upcur (s : State) (b : List Byte) : (s.setEmb b).upcur = s.upcur := rfl
@[simp] theorem State.setEmb_cmds (s : State) (b : List Byte) : (s.setEmb b).cmds = s.cmds := rfl
@[simp] theorem State.setEmb_rsps (s : State) (b : List Byte) : (s.setEmb b).rsps = s.rsps := rfl

/-! ## State.setPacker -/

@[simp] theorem State.setPacker_mode (s : State) (b : List Byte) (a : Byte) (n : BitVec 3) : (s.setPacker b a n).mode = s.mode := rfl
@[simp] theorem State.setPacker_w (s : State) (b : List Byte) (a : Byte) (n : BitVec 3) : (s.setPacker b a n).w = s.w := rfl
@[simp] theorem State.setPacker_emb (s : State) (b : List Byte) (a : Byte) (n : BitVec 3) : (s.setPacker b a n).emb = s.emb := rfl
@[simp] theorem State.setPacker_pkbuf (s : State) (b : List Byte) (a : Byte) (n : BitVec 3) : (s.setPacker b a n).pkbuf = b := rfl
@[simp] theorem State.setPacker_pkacc (s : State) (b : List Byte) (a : Byte) (n : BitVec 3) : (s.setPacker b a n).pkacc = a := rfl
@[simp] theorem State.setPacker_pknb (s : State) (b : List Byte) (a : Byte) (n : BitVec 3) : (s.setPacker b a n).pknb = n := rfl
@[simp] theorem State.setPacker_upbuf (s : State) (b : List Byte) (a : Byte) (n : BitVec 3) : (s.setPacker b a n).upbuf = s.upbuf := rfl
@[simp] theorem State.setPacker_upcur (s : State) (b : List Byte) (a : Byte) (n : BitVec 3) : (s.setPacker b a n).upcur = s.upcur := rfl
@[simp] theorem State.setPacker_cmds (s : State) (b : List Byte) (a : Byte) (n : BitVec 3) : (s.setPacker b a n).cmds = s.cmds := rfl
@[simp] theorem State.setPacker_rsps (s : State) (b : List Byte) (a : Byte) (n : BitVec 3) : (s.setPacker b a n).rsps = s.rsps := rfl

/-! ## State.setUpbuf -/

@[simp] theorem State.setUpbuf_mode (s : State) (b : List Byte) : (s.setUpbuf b).mode = s.mode := rfl
@[simp] theorem State.setUpbuf_w (s : State) (b : List Byte) : (s.setUpbuf b).w = s.w := rfl
@[simp] theorem State.setUpbuf_emb (s : State) (b : List Byte) : (s.setUpbuf b).emb = s.emb := rfl
@[simp] theorem State.setUpbuf_pkbuf (s : State) (b : List Byte) : (s.setUpbuf b).pkbuf = s.pkbuf := rfl
@[simp] theorem State.setUpbuf_pkacc (s : State) (b : List Byte) : (s.setUpbuf b).pkacc = s.pkacc := rfl
@[simp] theorem State.setUpbuf_pknb (s : State) (b : List Byte) : (s.setUpbuf b).pknb = s.pknb := rfl
@[simp] theorem State.setUpbuf_upbuf (s : State) (b : List Byte) : (s.setUpbuf b).upbuf = b := rfl
@[simp] theorem State.setUpbuf_upcur (s : State) (b : List Byte) : (s.setUpbuf b).upcur = s.upcur := rfl
@[simp] theorem State.setUpbuf_cmds (s : State) (b : List Byte) : (s.setUpbuf b).cmds = s.cmds := rfl
@[simp] theorem State.setUpbuf_rsps (s : State) (b : List Byte) : (s.setUpbuf b).rsps = s.rsps := rfl

/-! ## State.setUpcur -/

@[simp] theorem State.setUpcur_mode (s : State) (c : Nat) : (s.setUpcur c).mode = s.mode := rfl
@[simp] theorem State.setUpcur_w (s : State) (c : Nat) : (s.setUpcur c).w = s.w := rfl
@[simp] theorem State.setUpcur_emb (s : State) (c : Nat) : (s.setUpcur c).emb = s.emb := rfl
@[simp] theorem State.setUpcur_pkbuf (s : State) (c : Nat) : (s.setUpcur c).pkbuf = s.pkbuf := rfl
@[simp] theorem State.setUpcur_pkacc (s : State) (c : Nat) : (s.setUpcur c).pkacc = s.pkacc := rfl
@[simp] theorem State.setUpcur_pknb (s : State) (c : Nat) : (s.setUpcur c).pknb = s.pknb := rfl
@[simp] theorem State.setUpcur_upbuf (s : State) (c : Nat) : (s.setUpcur c).upbuf = s.upbuf := rfl
@[simp] theorem State.setUpcur_upcur (s : State) (c : Nat) : (s.setUpcur c).upcur = c := rfl
@[simp] theorem State.setUpcur_cmds (s : State) (c : Nat) : (s.setUpcur c).cmds = s.cmds := rfl
@[simp] theorem State.setUpcur_rsps (s : State) (c : Nat) : (s.setUpcur c).rsps = s.rsps := rfl

/-! ## State.setCmds -/

@[simp] theorem State.setCmds_mode (s : State) (ws : List Word) : (s.setCmds ws).mode = s.mode := rfl
@[simp] theorem State.setCmds_w (s : State) (ws : List Word) : (s.setCmds ws).w = s.w := rfl
@[simp] theorem State.setCmds_emb (s : State) (ws : List Word) : (s.setCmds ws).emb = s.emb := rfl
@[simp] theorem State.setCmds_pkbuf (s : State) (ws : List Word) : (s.setCmds ws).pkbuf = s.pkbuf := rfl
@[simp] theorem State.setCmds_pkacc (s : State) (ws : List Word) : (s.setCmds ws).pkacc = s.pkacc := rfl
@[simp] theorem State.setCmds_pknb (s : State) (ws : List Word) : (s.setCmds ws).pknb = s.pknb := rfl
@[simp] theorem State.setCmds_upbuf (s : State) (ws : List Word) : (s.setCmds ws).upbuf = s.upbuf := rfl
@[simp] theorem State.setCmds_upcur (s : State) (ws : List Word) : (s.setCmds ws).upcur = s.upcur := rfl
@[simp] theorem State.setCmds_cmds (s : State) (ws : List Word) : (s.setCmds ws).cmds = ws := rfl
@[simp] theorem State.setCmds_rsps (s : State) (ws : List Word) : (s.setCmds ws).rsps = s.rsps := rfl

/-! ## State.putRsp -/

@[simp] theorem State.putRsp_mode (s : State) (r : Word) : (s.putRsp r).mode = s.mode := rfl
@[simp] theorem State.putRsp_w (s : State) (r : Word) : (s.putRsp r).w = s.w := rfl
@[simp] theorem State.putRsp_emb (s : State) (r : Word) : (s.putRsp r).emb = s.emb := rfl
@[simp] theorem State.putRsp_pkbuf (s : State) (r : Word) : (s.putRsp r).pkbuf = s.pkbuf := rfl
@[simp] theorem State.putRsp_pkacc (s : State) (r : Word) : (s.putRsp r).pkacc = s.pkacc := rfl
@[simp] theorem State.putRsp_pknb (s : State) (r : Word) : (s.putRsp r).pknb = s.pknb := rfl
@[simp] theorem State.putRsp_upbuf (s : State) (r : Word) : (s.putRsp r).upbuf = s.upbuf := rfl
@[simp] theorem State.putRsp_upcur (s : State) (r : Word) : (s.putRsp r).upcur = s.upcur := rfl
@[simp] theorem State.putRsp_cmds (s : State) (r : Word) : (s.putRsp r).cmds = s.cmds := rfl
@[simp] theorem State.putRsp_rsps (s : State) (r : Word) : (s.putRsp r).rsps = s.rsps ++ [r] := rfl

end Sys2Proof.Machine
end

