-- ==== Sys2Proof/Laws/Ops.lean ====
section
/-! SUPPORT. What each shared operation can do, said once, so that no proof unfolds it again. -/

namespace Sys2Proof.Machine

/-! ## The outcomes of a command -/

theorem next_inj {s t : State} : (Host.Outcome.next s : Result) = .next t ↔ s = t :=
  ⟨fun h => by injection h, fun h => by rw [h]⟩

/-- A success changes nothing but the response port. -/
theorem respond_eq_next {aux val : Nat} {s t : State} :
    respond aux val s = .next t ↔ t = s.putRsp (rspWord 0 aux val) :=
  ⟨fun h => (next_inj.mp h).symm, fun h => h ▸ rfl⟩

/-- An error changes nothing but the response port (60_exceptions.md R222). -/
theorem raise_eq_next {e : ErrorKind} {s t : State} :
    raise e s = .next t ↔ t = s.putRsp (rspWord e.code 0 0) :=
  ⟨fun h => (next_inj.mp h).symm, fun h => h ▸ rfl⟩

theorem errorCode_pos (e : ErrorKind) : 0 < e.code := by cases e <;> decide

theorem errorCode_le (e : ErrorKind) : e.code ≤ 10 := by cases e <;> decide

/-! ## The fields of a response word -/

theorem append_toNat {m n : Nat} (a : BitVec m) (b : BitVec n) : (a ++ b).toNat = a.toNat * 2 ^ n + b.toNat := by
  rw [BitVec.toNat_append, ← Nat.shiftLeft_add_eq_or_of_lt b.isLt, Nat.shiftLeft_eq]

/-- A response word as a number. -/
theorem rspWord_toNat (err aux val : Nat) :
    (rspWord err aux val).toNat = err % 2 ^ 8 * 2 ^ 56 + aux % 2 ^ 24 * 2 ^ 32 + val % 2 ^ 32 := by
  simp only [rspWord, append_toNat, BitVec.toNat_ofNat]
  omega

theorem rspErr_rspWord (err aux val : Nat) : rspErr (rspWord err aux val) = err % 2 ^ 8 := by
  rw [rspErr, BitVec.extractLsb_toNat, rspWord_toNat, Nat.shiftRight_eq_div_pow]; omega

theorem rspAux_rspWord (err aux val : Nat) : rspAux (rspWord err aux val) = aux % 2 ^ 24 := by
  rw [rspAux, BitVec.extractLsb_toNat, rspWord_toNat, Nat.shiftRight_eq_div_pow]; omega

theorem rspVal_rspWord (err aux val : Nat) : rspVal (rspWord err aux val) = val % 2 ^ 32 := by
  rw [rspVal, BitVec.extractLsb_toNat, rspWord_toNat, Nat.shiftRight_eq_div_pow]; omega

theorem rspErr_raise (e : ErrorKind) : rspErr (rspWord e.code 0 0) = e.code := by
  rw [rspErr_rspWord]; exact Nat.mod_eq_of_lt (by have := errorCode_le e; omega)

/-! ## The command port and the step -/

theorem acceptCommand_eq_some {s t : State} {c : Word} :
    acceptCommand s = some (c, t) ↔ ∃ rest, s.cmds = c :: rest ∧ t = s.setCmds rest := by
  unfold acceptCommand
  cases h : s.cmds with
  | nil => simp
  | cons d rest => simp [eq_comm]

theorem acceptCommand_eq_none {s : State} : acceptCommand s = none ↔ s.cmds = [] := by
  unfold acceptCommand
  cases h : s.cmds <;> simp

/-- With no command presented a step leaves the state as it is. -/
theorem step_idle {s : State} (h : s.cmds = []) : step s = .next s := by
  unfold step; rw [acceptCommand_eq_none.mpr h]; rfl

/-- With a command presented a step accepts it and executes it. -/
theorem step_command {s : State} {c : Word} {rest : List Word} {i : Instr} (h : s.cmds = c :: rest)
    (hd : decode c = .ok i) : step s = exec i (s.setCmds rest) := by
  unfold step; rw [acceptCommand_eq_some.mpr ⟨rest, h, rfl⟩]; simp only [hd]

/-- With a word presented that is no command a step accepts it and answers IllegalCommand (30_encoding.md R76). -/
theorem step_reject {s : State} {c : Word} {rest : List Word} {r : DecodeReject} (h : s.cmds = c :: rest)
    (hd : decode c = .error r) : step s = .next ((s.setCmds rest).putRsp (rspWord 10 0 0)) := by
  unfold step; rw [acceptCommand_eq_some.mpr ⟨rest, h, rfl⟩]; simp only [hd]; rfl

/-! ## The buffers -/

/-- Appending a byte to EMB: one more byte, or BufferFull. -/
theorem appendEmb_cases (b : Byte) (s : State) :
    (s.emb.length < embCap ∧ appendEmb b s = respond 0 (s.emb.length + 1) (s.setEmb (s.emb ++ [b])))
      ∨ (embCap ≤ s.emb.length ∧ appendEmb b s = raise .bufferFull s) := by
  unfold appendEmb storeEmb
  split
  · exact .inr ⟨‹_›, rfl⟩
  · exact .inl ⟨by omega, by simp⟩

/-- Appending a byte to UPBUF: one more byte, or BufferFull. -/
theorem appendUp_cases (b : Byte) (s : State) :
    (s.upbuf.length < Config.upCap ∧ appendUp b s = respond 0 (s.upbuf.length + 1) (s.setUpbuf (s.upbuf ++ [b])))
      ∨ (Config.upCap ≤ s.upbuf.length ∧ appendUp b s = raise .bufferFull s) := by
  unfold appendUp
  split
  · exact .inr ⟨‹_›, rfl⟩
  · exact .inl ⟨by omega, rfl⟩

/-- A bounds-checked read: the element, or IndexOutOfRange; the state is the same but for the response. -/
theorem respondEntry_cases (found : Option Nat) (s : State) :
    (∃ v, found = some v ∧ respondEntry found s = respond 0 v s)
      ∨ (found = none ∧ respondEntry found s = raise .indexOutOfRange s) := by
  cases found with
  | none => exact .inr ⟨rfl, rfl⟩
  | some v => exact .inl ⟨v, rfl, rfl⟩

/-! ## The packer -/

/-- Appending one bit changes the packer only. -/
theorem putBit_frame (b : Bool) (s : State) :
    ∃ buf acc nb, putBit b s = s.setPacker buf acc nb := by
  unfold putBit
  split
  · exact ⟨_, _, _, rfl⟩
  · exact ⟨_, _, _, rfl⟩

/-- Appending bits changes the packer only. -/
theorem putBits_frame (v : BitVec 32) (k : Nat) (s : State) :
    ∃ buf acc nb, putBits v k s = s.setPacker buf acc nb := by
  induction k generalizing s with
  | zero => exact ⟨s.pkbuf, s.pkacc, s.pknb, rfl⟩
  | succ k ih =>
    obtain ⟨b1, a1, n1, h1⟩ := putBit_frame (v.getLsbD k) s
    obtain ⟨b2, a2, n2, h2⟩ := ih (putBit (v.getLsbD k) s)
    exact ⟨b2, a2, n2, by rw [putBits, h2, h1]; rfl⟩

/-- Appending one bit moves the write position 8*PKLEN + PKNB by one (10_state.md R25). -/
theorem putBit_position (b : Bool) (s : State) :
    8 * (putBit b s).pkbuf.length + (putBit b s).pknb.toNat = 8 * s.pkbuf.length + s.pknb.toNat + 1 := by
  have hlt : s.pknb.toNat < 8 := s.pknb.isLt
  unfold putBit
  split
  · simp; omega
  · simp only [State.setPacker_pkbuf, State.setPacker_pknb, BitVec.toNat_add]
    have : (1 : BitVec 3).toNat = 1 := rfl
    omega

/-- Appending k bits moves the write position by k. -/
theorem putBits_position (v : BitVec 32) (k : Nat) (s : State) :
    8 * (putBits v k s).pkbuf.length + (putBits v k s).pknb.toNat = 8 * s.pkbuf.length + s.pknb.toNat + k := by
  induction k generalizing s with
  | zero => rfl
  | succ k ih => rw [putBits, ih, putBit_position]; omega

/-- The bytes a write completes are those the capacity check counts (46_bitstream.md R192). -/
theorem putBits_length (v : BitVec 32) (k : Nat) (s : State) :
    (putBits v k s).pkbuf.length = s.pkbuf.length + completedBytes k s := by
  have h := putBits_position v k s
  have h1 : (putBits v k s).pknb.toNat < 8 := (putBits v k s).pknb.isLt
  unfold completedBytes
  omega

/-! ## The unpacker -/

theorem bitAt_lt (buf : List Byte) (p : Nat) : bitAt buf p < 2 := by
  unfold bitAt
  split
  · exact Bool.toNat_lt _
  · omega

/-- A read of n bits is a number below 2^n. -/
theorem readBits_lt (buf : List Byte) (cur n : Nat) : readBits buf cur n < 2 ^ n := by
  induction n with
  | zero => simp [readBits]
  | succ n ih => have := bitAt_lt buf (cur + n); rw [readBits, pow_succ]; omega

end Sys2Proof.Machine
end

