-- ==== Sys2Proof/Laws/Memory.lean ====
section
/-! SUPPORT. Every operation over the buffers keeps them within their capacities (Memory.wf), and the reset state's
buffers are. -/

namespace Sys2Proof.Machine

theorem Memory.wf_iff {s : State} :
    Memory.wf s = true ↔ s.w.length ≤ paletteCap ∧ s.emb.length ≤ embCap
      ∧ s.pkbuf.length ≤ Config.pkCap ∧ s.upbuf.length ≤ Config.upCap := by
  simp [Memory.wf, and_assoc]

theorem Memory.wf_reset : Memory.wf State.reset = true := by
  simp [Memory.wf_iff, State.reset]

/-- The form depends on the four buffers only. -/
theorem Memory.wf_congr {s t : State} (hw : t.w = s.w) (he : t.emb = s.emb) (hp : t.pkbuf = s.pkbuf)
    (hu : t.upbuf = s.upbuf) : Memory.wf t = Memory.wf s := by
  simp [Memory.wf, hw, he, hp, hu]

theorem Memory.wf_putRsp {s : State} {r : Word} (h : Memory.wf s = true) : Memory.wf (s.putRsp r) = true := h

theorem Memory.wf_setCmds {s : State} {ws : List Word} (h : Memory.wf s = true) : Memory.wf (s.setCmds ws) = true := h

theorem Memory.wf_setMode {s : State} {n : BitVec 3} (h : Memory.wf s = true) : Memory.wf (s.setMode n) = true := h

theorem Memory.wf_setUpcur {s : State} {c : Nat} (h : Memory.wf s = true) : Memory.wf (s.setUpcur c) = true := h

theorem Memory.wf_setW {s : State} {p : List Rgb} (h : Memory.wf s = true) (hp : p.length ≤ paletteCap) :
    Memory.wf (s.setW p) = true := by
  rw [Memory.wf_iff] at *; exact ⟨hp, h.2⟩

theorem Memory.wf_setEmb {s : State} {b : List Byte} (h : Memory.wf s = true) (hb : b.length ≤ embCap) :
    Memory.wf (s.setEmb b) = true := by
  rw [Memory.wf_iff] at *; exact ⟨h.1, hb, h.2.2⟩

theorem Memory.wf_setPacker {s : State} {b : List Byte} {a : Byte} {n : BitVec 3} (h : Memory.wf s = true)
    (hb : b.length ≤ Config.pkCap) : Memory.wf (s.setPacker b a n) = true := by
  rw [Memory.wf_iff] at *; exact ⟨h.1, h.2.1, hb, h.2.2.2⟩

theorem Memory.wf_setUpbuf {s : State} {b : List Byte} (h : Memory.wf s = true) (hb : b.length ≤ Config.upCap) :
    Memory.wf (s.setUpbuf b) = true := by
  rw [Memory.wf_iff] at *; exact ⟨h.1, h.2.1, h.2.2.1, hb⟩

theorem Memory.wf_softReset (s : State) : Memory.wf (softReset s) = true := by
  simp [Memory.wf_iff, softReset, clearPacker, clearUnpacker]

/-- A write that passes the capacity check keeps the packer within its capacity. -/
theorem Memory.wf_putBits {s : State} {v : BitVec 32} {k : Nat} (h : Memory.wf s = true)
    (hk : s.pkbuf.length + completedBytes k s ≤ Config.pkCap) : Memory.wf (putBits v k s) = true := by
  obtain ⟨b, a, n, hf⟩ := putBits_frame v k s
  have hl := putBits_length v k s
  rw [hf] at hl ⊢
  exact Memory.wf_setPacker h (by rw [State.setPacker_pkbuf] at hl; omega)

/-- A step answer of `appendEmb` keeps the form. -/
theorem Memory.wf_appendEmb {s t : State} {b : Byte} (h : Memory.wf s = true) (ht : appendEmb b s = .next t) :
    Memory.wf t = true := by
  obtain ⟨hl, he⟩ | ⟨-, he⟩ := appendEmb_cases b s <;> rw [he] at ht
  · rw [respond_eq_next.mp ht]; exact Memory.wf_putRsp (Memory.wf_setEmb h (by simp; omega))
  · rw [raise_eq_next.mp ht]; exact Memory.wf_putRsp h

/-- A step answer of `appendUp` keeps the form. -/
theorem Memory.wf_appendUp {s t : State} {b : Byte} (h : Memory.wf s = true) (ht : appendUp b s = .next t) :
    Memory.wf t = true := by
  obtain ⟨hl, he⟩ | ⟨-, he⟩ := appendUp_cases b s <;> rw [he] at ht
  · rw [respond_eq_next.mp ht]; exact Memory.wf_putRsp (Memory.wf_setUpbuf h (by simp; omega))
  · rw [raise_eq_next.mp ht]; exact Memory.wf_putRsp h

theorem Memory.wf_loadPalette {s t : State} {p : List Rgb} (h : Memory.wf s = true) (hp : p.length ≤ paletteCap)
    (ht : loadPalette p s = .next t) : Memory.wf t = true := by
  rw [respond_eq_next.mp ht]; exact Memory.wf_putRsp (Memory.wf_setW h hp)

theorem Memory.wf_storeEmb {s t : State} {b : List Byte} (h : Memory.wf s = true) (hb : b.length ≤ embCap)
    (ht : storeEmb b s = .next t) : Memory.wf t = true := by
  rw [respond_eq_next.mp ht]; exact Memory.wf_putRsp (Memory.wf_setEmb h hb)

end Sys2Proof.Machine
end

