-- ==== Sys2Proof/Laws/PerInstr.lean ====
section
/-! SUPPORT. A family of statements made once per command: the word that the encoder writes for it fits a row of the
opcode map, so it is a legal command word (30_encoding.md R75, R76). -/

namespace Sys2Proof.Laws.TableRow

/-- The command's word fits a row of the opcode map. -/
def Statement (i : Instr) : Prop := ∃ row ∈ rows, encode i &&& row.mask = row.fixed

theorem packByte_reserved (b : Byte) : packByte b &&& 0xFFFFFF00 = 0 := by
  rw [show (0xFFFFFF00 : BitVec 32) = (0xFFFFFF : BitVec 24) ++ (0 : BitVec 8) by decide, packByte, BitVec.and_append]
  simp

theorem packColour_reserved (r g b : Byte) : packColour r g b &&& 0xFF000000 = 0 := by
  rw [show (0xFF000000 : BitVec 32) = (0xFF : BitVec 8) ++ (0 : BitVec 8) ++ (0 : BitVec 8) ++ (0 : BitVec 8) by decide,
    packColour, BitVec.and_append, BitVec.and_append, BitVec.and_append]
  simp

theorem packNc_reserved (nc : BitVec 3) : packNc nc &&& 0xFFFFFFF8 = 0 := by revert nc; decide

theorem packIndices_reserved (i0 i1 i2 : Nat) : packIndices i0 i1 i2 &&& 0xFFFFFFC0 = 0 := by
  rw [packIndices]
  generalize BitVec.ofNat 2 i0 = x, BitVec.ofNat 2 i1 = y, BitVec.ofNat 2 i2 = z
  revert x y z; decide

theorem packRef_reserved (ref : BitVec 3) : packRef ref &&& 0xF8 = 0 := by revert ref; decide

theorem packCoords_reserved (x y : Nat) : packCoords x y 0 &&& 0xFF = 0 := by
  rw [show (0xFF : BitVec 32) = (0 : BitVec 12) ++ (0 : BitVec 12) ++ (0xFF : BitVec 8) by decide, packCoords,
    BitVec.and_append, BitVec.and_append]
  simp

/-- A word whose masked fields are zero beside the row's opcode fits the row. -/
theorem fits_of_fields {row : Row} (h : row ∈ rows) {f mf : BitVec 8} {c mc : BitVec 16} {a ma : BitVec 32}
    (hm : row.mask = cmdWord 0xFF mf mc ma) (hx : row.fixed = cmdWord row.op 0 0 0)
    (hf : f &&& mf = 0) (hc : c &&& mc = 0) (ha : a &&& ma = 0) :
    ∃ row' ∈ rows, cmdWord row.op f c a &&& row'.mask = row'.fixed :=
  ⟨row, h, by rw [hm, hx, cmdWord_and, cmdWord_inj]; exact ⟨BitVec.and_allOnes, hf, hc, ha⟩⟩

theorem srst : Statement (.srst) :=
  fits_of_fields (row := rows[0]) (mf := 0xFF) (mc := 0xFFFF) (ma := 0xFFFFFFFF) (List.getElem_mem (by decide)) (by decide) (by decide)
    BitVec.zero_and BitVec.zero_and BitVec.zero_and

theorem csrRd (n : Nat) : Statement (.csrRd n) :=
  fits_of_fields (row := rows[1]) (mf := 0x00) (mc := 0xFFFF) (ma := 0xFFFFFFFF) (List.getElem_mem (by decide)) (by decide) (by decide)
    BitVec.and_zero BitVec.zero_and BitVec.zero_and

theorem modeSet (v : Nat) : Statement (.modeSet v) :=
  fits_of_fields (row := rows[2]) (mf := 0xFF) (mc := 0xFFFF) (ma := 0x00000000) (List.getElem_mem (by decide)) (by decide) (by decide)
    BitVec.zero_and BitVec.zero_and BitVec.and_zero

theorem modeByNc (v : Nat) : Statement (.modeByNc v) :=
  fits_of_fields (row := rows[3]) (mf := 0xFF) (mc := 0xFFFF) (ma := 0x00000000) (List.getElem_mem (by decide)) (by decide) (by decide)
    BitVec.zero_and BitVec.zero_and BitVec.and_zero

theorem modeByCc (v : Nat) : Statement (.modeByCc v) :=
  fits_of_fields (row := rows[4]) (mf := 0xFF) (mc := 0xFFFF) (ma := 0x00000000) (List.getElem_mem (by decide)) (by decide) (by decide)
    BitVec.zero_and BitVec.zero_and BitVec.and_zero

theorem palColor (i : Nat) : Statement (.palColor i) :=
  fits_of_fields (row := rows[5]) (mf := 0xFF) (mc := 0xFFFF) (ma := 0x00000000) (List.getElem_mem (by decide)) (by decide) (by decide)
    BitVec.zero_and BitVec.zero_and BitVec.and_zero

theorem palLdRom : Statement (.palLdRom) :=
  fits_of_fields (row := rows[6]) (mf := 0xFF) (mc := 0xFFFF) (ma := 0xFFFFFFFF) (List.getElem_mem (by decide)) (by decide) (by decide)
    BitVec.zero_and BitVec.zero_and BitVec.zero_and

theorem palLdEmb : Statement (.palLdEmb) :=
  fits_of_fields (row := rows[7]) (mf := 0xFF) (mc := 0xFFFF) (ma := 0xFFFFFFFF) (List.getElem_mem (by decide)) (by decide) (by decide)
    BitVec.zero_and BitVec.zero_and BitVec.zero_and

theorem palLdBoot : Statement (.palLdBoot) :=
  fits_of_fields (row := rows[8]) (mf := 0xFF) (mc := 0xFFFF) (ma := 0xFFFFFFFF) (List.getElem_mem (by decide)) (by decide) (by decide)
    BitVec.zero_and BitVec.zero_and BitVec.zero_and

theorem palGet (i : Nat) : Statement (.palGet i) :=
  fits_of_fields (row := rows[9]) (mf := 0xFF) (mc := 0xFFFF) (ma := 0x00000000) (List.getElem_mem (by decide)) (by decide) (by decide)
    BitVec.zero_and BitVec.zero_and BitVec.and_zero

theorem palExpand : Statement (.palExpand) :=
  fits_of_fields (row := rows[10]) (mf := 0xFF) (mc := 0xFFFF) (ma := 0xFFFFFFFF) (List.getElem_mem (by decide)) (by decide) (by decide)
    BitVec.zero_and BitVec.zero_and BitVec.zero_and

theorem embClr : Statement (.embClr) :=
  fits_of_fields (row := rows[11]) (mf := 0xFF) (mc := 0xFFFF) (ma := 0xFFFFFFFF) (List.getElem_mem (by decide)) (by decide) (by decide)
    BitVec.zero_and BitVec.zero_and BitVec.zero_and

theorem embPut (b : Byte) : Statement (.embPut b) :=
  fits_of_fields (row := rows[12]) (mf := 0xFF) (mc := 0xFFFF) (ma := 0xFFFFFF00) (List.getElem_mem (by decide)) (by decide) (by decide)
    BitVec.zero_and BitVec.zero_and (packByte_reserved b)

theorem embGet (i : Nat) : Statement (.embGet i) :=
  fits_of_fields (row := rows[13]) (mf := 0xFF) (mc := 0xFFFF) (ma := 0x00000000) (List.getElem_mem (by decide)) (by decide) (by decide)
    BitVec.zero_and BitVec.zero_and BitVec.and_zero

theorem embEnc : Statement (.embEnc) :=
  fits_of_fields (row := rows[14]) (mf := 0xFF) (mc := 0xFFFF) (ma := 0xFFFFFFFF) (List.getElem_mem (by decide)) (by decide) (by decide)
    BitVec.zero_and BitVec.zero_and BitVec.zero_and

theorem embEncW : Statement (.embEncW) :=
  fits_of_fields (row := rows[15]) (mf := 0xFF) (mc := 0xFFFF) (ma := 0xFFFFFFFF) (List.getElem_mem (by decide)) (by decide) (by decide)
    BitVec.zero_and BitVec.zero_and BitVec.zero_and

theorem embDec : Statement (.embDec) :=
  fits_of_fields (row := rows[16]) (mf := 0xFF) (mc := 0xFFFF) (ma := 0xFFFFFFFF) (List.getElem_mem (by decide)) (by decide) (by decide)
    BitVec.zero_and BitVec.zero_and BitVec.zero_and

theorem embDecM : Statement (.embDecM) :=
  fits_of_fields (row := rows[17]) (mf := 0xFF) (mc := 0xFFFF) (ma := 0xFFFFFFFF) (List.getElem_mem (by decide)) (by decide) (by decide)
    BitVec.zero_and BitVec.zero_and BitVec.zero_and

theorem clsIdx (r : Byte) (g : Byte) (b : Byte) : Statement (.clsIdx r g b) :=
  fits_of_fields (row := rows[18]) (mf := 0xFF) (mc := 0xFFFF) (ma := 0xFF000000) (List.getElem_mem (by decide)) (by decide) (by decide)
    BitVec.zero_and BitVec.zero_and (packColour_reserved r g b)

theorem ncEnc (nc : BitVec 3) : Statement (.ncEnc nc) :=
  fits_of_fields (row := rows[19]) (mf := 0xFF) (mc := 0xFFFF) (ma := 0xFFFFFFF8) (List.getElem_mem (by decide)) (by decide) (by decide)
    BitVec.zero_and BitVec.zero_and (packNc_reserved nc)

theorem ncDec (cnt : Nat) (i0 : Nat) (i1 : Nat) (i2 : Nat) : Statement (.ncDec cnt i0 i1 i2) :=
  fits_of_fields (row := rows[20]) (mf := 0x00) (mc := 0xFFFF) (ma := 0xFFFFFFC0) (List.getElem_mem (by decide)) (by decide) (by decide)
    BitVec.and_zero BitVec.zero_and (packIndices_reserved i0 i1 i2)

theorem maskVal (ref : BitVec 3) (m : Int) (x : Nat) (y : Nat) : Statement (.maskVal ref m x y) :=
  fits_of_fields (row := rows[21]) (mf := 0xF8) (mc := 0x0000) (ma := 0x000000FF) (List.getElem_mem (by decide)) (by decide) (by decide)
    (packRef_reserved ref) BitVec.and_zero (packCoords_reserved x y)

theorem maskAdd (ref : BitVec 3) (m : Int) (x : Nat) (y : Nat) (idx : Nat) : Statement (.maskAdd ref m x y idx) :=
  fits_of_fields (row := rows[22]) (mf := 0xF8) (mc := 0x0000) (ma := 0x00000000) (List.getElem_mem (by decide)) (by decide) (by decide)
    (packRef_reserved ref) BitVec.and_zero BitVec.and_zero

theorem maskSub (ref : BitVec 3) (m : Int) (x : Nat) (y : Nat) (idx : Nat) : Statement (.maskSub ref m x y idx) :=
  fits_of_fields (row := rows[23]) (mf := 0xF8) (mc := 0x0000) (ma := 0x00000000) (List.getElem_mem (by decide)) (by decide) (by decide)
    (packRef_reserved ref) BitVec.and_zero BitVec.and_zero

theorem pkRst : Statement (.pkRst) :=
  fits_of_fields (row := rows[24]) (mf := 0xFF) (mc := 0xFFFF) (ma := 0xFFFFFFFF) (List.getElem_mem (by decide)) (by decide) (by decide)
    BitVec.zero_and BitVec.zero_and BitVec.zero_and

theorem pkWrite (v : BitVec 32) (w : Int) : Statement (.pkWrite v w) :=
  fits_of_fields (row := rows[25]) (mf := 0x00) (mc := 0xFFFF) (ma := 0x00000000) (List.getElem_mem (by decide)) (by decide) (by decide)
    BitVec.and_zero BitVec.zero_and BitVec.and_zero

theorem pkAlign : Statement (.pkAlign) :=
  fits_of_fields (row := rows[26]) (mf := 0xFF) (mc := 0xFFFF) (ma := 0xFFFFFFFF) (List.getElem_mem (by decide)) (by decide) (by decide)
    BitVec.zero_and BitVec.zero_and BitVec.zero_and

theorem pkGet (i : Nat) : Statement (.pkGet i) :=
  fits_of_fields (row := rows[27]) (mf := 0xFF) (mc := 0xFFFF) (ma := 0x00000000) (List.getElem_mem (by decide)) (by decide) (by decide)
    BitVec.zero_and BitVec.zero_and BitVec.and_zero

theorem upRst : Statement (.upRst) :=
  fits_of_fields (row := rows[28]) (mf := 0xFF) (mc := 0xFFFF) (ma := 0xFFFFFFFF) (List.getElem_mem (by decide)) (by decide) (by decide)
    BitVec.zero_and BitVec.zero_and BitVec.zero_and

theorem upPut (b : Byte) : Statement (.upPut b) :=
  fits_of_fields (row := rows[29]) (mf := 0xFF) (mc := 0xFFFF) (ma := 0xFFFFFF00) (List.getElem_mem (by decide)) (by decide) (by decide)
    BitVec.zero_and BitVec.zero_and (packByte_reserved b)

theorem upRead (n : Int) : Statement (.upRead n) :=
  fits_of_fields (row := rows[30]) (mf := 0x00) (mc := 0xFFFF) (ma := 0xFFFFFFFF) (List.getElem_mem (by decide)) (by decide) (by decide)
    BitVec.and_zero BitVec.zero_and BitVec.zero_and

theorem upMore : Statement (.upMore) :=
  fits_of_fields (row := rows[31]) (mf := 0xFF) (mc := 0xFFFF) (ma := 0xFFFFFFFF) (List.getElem_mem (by decide)) (by decide) (by decide)
    BitVec.zero_and BitVec.zero_and BitVec.zero_and

theorem upRew : Statement (.upRew) :=
  fits_of_fields (row := rows[32]) (mf := 0xFF) (mc := 0xFFFF) (ma := 0xFFFFFFFF) (List.getElem_mem (by decide)) (by decide) (by decide)
    BitVec.zero_and BitVec.zero_and BitVec.zero_and

end Sys2Proof.Laws.TableRow
end

