-- ==== Sys2Proof/Tests/Slice0.lean ====
section
/-! SUPPORT. Tests of the model, and for each statement with hypotheses a state and operands that meet them. Expected
values are those of spec/95_test_vectors.md (the part is named), or computed by hand from the rule that is named; none
depends on an open parameter. -/

namespace Sys2Proof.Tests

open Sys2Proof.Machine Sys2Proof.Safety

/-! ## Well-formedness: each check refuses a term that is out of its range (30_encoding.md R74) -/

theorem test_wf_refuses_csr_256 : (Instr.csrRd 256).wf = false := by decide
theorem test_wf_refuses_modeSet_33_bits : (Instr.modeSet (2 ^ 32)).wf = false := by decide
theorem test_wf_refuses_modeByNc_33_bits : (Instr.modeByNc (2 ^ 32)).wf = false := by decide
theorem test_wf_refuses_modeByCc_33_bits : (Instr.modeByCc (2 ^ 32)).wf = false := by decide
theorem test_wf_refuses_palColor_33_bits : (Instr.palColor (2 ^ 32)).wf = false := by decide
theorem test_wf_refuses_palGet_33_bits : (Instr.palGet (2 ^ 32)).wf = false := by decide
theorem test_wf_refuses_embGet_33_bits : (Instr.embGet (2 ^ 32)).wf = false := by decide
theorem test_wf_refuses_pkGet_33_bits : (Instr.pkGet (2 ^ 32)).wf = false := by decide
theorem test_wf_refuses_count_256 : (Instr.ncDec 256 0 0 0).wf = false := by decide
theorem test_wf_refuses_bootstrap_4 :
    (Instr.ncDec 3 4 0 0).wf = false ∧ (Instr.ncDec 3 0 4 0).wf = false ∧ (Instr.ncDec 3 0 0 4).wf = false := by decide
theorem test_wf_refuses_modulus :
    (Instr.maskVal 0 32768 0 0).wf = false ∧ (Instr.maskAdd 0 (-32769) 0 0 0).wf = false
      ∧ (Instr.maskSub 0 32768 0 0 0).wf = false := by decide
theorem test_wf_refuses_coordinate :
    (Instr.maskVal 0 1 4096 0).wf = false ∧ (Instr.maskAdd 0 1 0 4096 0).wf = false
      ∧ (Instr.maskSub 0 1 4096 0 0).wf = false := by decide
theorem test_wf_refuses_index_256 :
    (Instr.maskAdd 0 1 0 0 256).wf = false ∧ (Instr.maskSub 0 1 0 0 256).wf = false := by decide
theorem test_wf_refuses_width :
    (Instr.pkWrite 0 128).wf = false ∧ (Instr.pkWrite 0 (-129)).wf = false ∧ (Instr.upRead 128).wf = false
      ∧ (Instr.upRead (-129)).wf = false := by decide

/-! ## Decoding: words written out from the formats of 30_encoding.md R71 and the opcodes of R75 -/

theorem test_decode_srst : decodeTableWord 64 0x0100000000000000 = some (.srst) := by decide
theorem test_decode_csr_rd : decodeTableWord 64 0x0207000000000000 = some (.csrRd 7) := by decide
theorem test_decode_mode_set : decodeTableWord 64 0x1000000000000007 = some (.modeSet 7) := by decide
theorem test_decode_mode_bync : decodeTableWord 64 0x11000000FFFFFFFF = some (.modeByNc 0xFFFFFFFF) := by decide
theorem test_decode_mode_bycc : decodeTableWord 64 0x1200000000000100 = some (.modeByCc 256) := by decide
theorem test_decode_pal_color : decodeTableWord 64 0x20000000000000B4 = some (.palColor 180) := by decide
theorem test_decode_pal_ldrom : decodeTableWord 64 0x2100000000000000 = some (.palLdRom) := by decide
theorem test_decode_pal_ldemb : decodeTableWord 64 0x2200000000000000 = some (.palLdEmb) := by decide
theorem test_decode_pal_ldboot : decodeTableWord 64 0x2300000000000000 = some (.palLdBoot) := by decide
theorem test_decode_pal_get : decodeTableWord 64 0x240000000000007F = some (.palGet 127) := by decide
theorem test_decode_pal_expand : decodeTableWord 64 0x2500000000000000 = some (.palExpand) := by decide
theorem test_decode_emb_clr : decodeTableWord 64 0x3000000000000000 = some (.embClr) := by decide
theorem test_decode_emb_put : decodeTableWord 64 0x31000000000000A5 = some (.embPut 0xA5) := by decide
theorem test_decode_emb_get : decodeTableWord 64 0x320000000000000C = some (.embGet 12) := by decide
theorem test_decode_emb_enc : decodeTableWord 64 0x3300000000000000 = some (.embEnc) := by decide
theorem test_decode_emb_encw : decodeTableWord 64 0x3400000000000000 = some (.embEncW) := by decide
theorem test_decode_emb_dec : decodeTableWord 64 0x3500000000000000 = some (.embDec) := by decide
theorem test_decode_emb_decm : decodeTableWord 64 0x3600000000000000 = some (.embDecM) := by decide
theorem test_decode_cls_idx : decodeTableWord 64 0x40000000002864C8 = some (.clsIdx 40 100 200) := by decide
theorem test_decode_nc_enc : decodeTableWord 64 0x5000000000000005 = some (.ncEnc 5) := by decide
theorem test_decode_nc_dec : decodeTableWord 64 0x5103000000000024 = some (.ncDec 3 2 1 0) := by decide
theorem test_decode_mask_val : decodeTableWord 64 0x6003FFFF01101D00 = some (.maskVal 3 (-1) 17 29) := by decide
theorem test_decode_mask_add : decodeTableWord 64 0x6105000000100203 = some (.maskAdd 5 0 1 2 3) := by decide
theorem test_decode_mask_sub : decodeTableWord 64 0x6205FFFF00100203 = some (.maskSub 5 (-1) 1 2 3) := by decide
theorem test_decode_pk_rst : decodeTableWord 64 0x7000000000000000 = some (.pkRst) := by decide
theorem test_decode_pk_write : decodeTableWord 64 0x71FF0000DEADBEEF = some (.pkWrite 0xDEADBEEF (-1)) := by decide
theorem test_decode_pk_align : decodeTableWord 64 0x7200000000000000 = some (.pkAlign) := by decide
theorem test_decode_pk_get : decodeTableWord 64 0x7300000000000001 = some (.pkGet 1) := by decide
theorem test_decode_up_rst : decodeTableWord 64 0x7800000000000000 = some (.upRst) := by decide
theorem test_decode_up_put : decodeTableWord 64 0x79000000000000A0 = some (.upPut 0xA0) := by decide
theorem test_decode_up_read : decodeTableWord 64 0x7A80000000000000 = some (.upRead (-128)) := by decide
theorem test_decode_up_more : decodeTableWord 64 0x7B00000000000000 = some (.upMore) := by decide
theorem test_decode_up_rew : decodeTableWord 64 0x7C00000000000000 = some (.upRew) := by decide

/-! Illegal words (95_test_vectors.md F4, F9; 30_encoding.md R76) -/

theorem test_reject_zero : decode 0x0000000000000000 = .error .unknownOpcode := by decide
theorem test_reject_ones : decode 0xFFFFFFFFFFFFFFFF = .error .unknownOpcode := by decide
theorem test_reject_unassigned : decode 0x7400000000000000 = .error .unknownOpcode := by decide
theorem test_reject_srst_bit_0 : decode 0x0100000000000001 = .error .reservedBits := by decide
theorem test_reject_mode_f : decode 0x1001000000000001 = .error .reservedBits := by decide
theorem test_reject_cls_bit_24 : decode 0x4000000001000000 = .error .reservedBits := by decide
theorem test_reject_nc_bit_3 : decode 0x5000000000000008 = .error .reservedBits := by decide
theorem test_reject_pk_write_c : decode 0x7101000100000001 = .error .reservedBits := by decide

/-! ## One step

`reply` is the answer (err, aux, val) of the step that runs one command word, `after` the state it leaves. -/

/-- The answer to one command word. -/
def reply (s : State) (w : Nat) : Option (Nat × Nat × Nat) := answer (step (s.withFetchWord 64 w))

/-- The state after one command word. -/
def after (s : State) (w : Nat) : State :=
  match step (s.withFetchWord 64 w) with
  | .next t => t
  | .fault _ => s
  | .refused _ => s

/-- The reset state with a mode selected. -/
def inMode (n : BitVec 3) : State := State.reset.setMode n

/-- The working palette of 95_test_vectors.md F3, rows 13 to 15. -/
def threeColours : State := State.reset.setW [⟨0, 0, 0⟩, ⟨9, 9, 9⟩, ⟨9, 9, 9⟩]

/-- A packer with one completed byte and seven pending bits (95_test_vectors.md S6, row 7, after a byte). -/
def sevenPending : State := State.reset.setPacker [0xA3] 0xAC 7

/-- An unpacker that holds the byte A0 at bit 3 (95_test_vectors.md S7). -/
def a0AtBit3 : State := (State.reset.setUpbuf [0xA0]).setUpcur 3

/-- 95 F9 row 5. -/
theorem test_illegal_word : reply State.reset 0x0100000000000001 = some (10, 0, 0) := by decide
/-- log entry 2: no command presented. -/
theorem test_idle : (match step State.reset with | .next t => decide (t = State.reset) | _ => false) = true := by decide
/-- 95 F9 row 28. -/
theorem test_srst_clears : after (sevenPending.setMode 5) 0x0100000000000000 = State.reset.putRsp 0 := by decide
/-- 10_state.md R28: CSR 5 is PKACC. -/
theorem test_csr_rd_5 : reply sevenPending 0x0205000000000000 = some (0, 0, 172) := by decide
/-- 95 F9 row 12. -/
theorem test_csr_rd_10 : reply State.reset 0x020A000000000000 = some (10, 0, 0) := by decide
/-- 95 F1, second table, row 3. -/
theorem test_mode_set_3 : after State.reset 0x1000000000000003 = (inMode 3).putRsp 0x0000001000001043 := by decide
/-- 95 F1, second table, row 5. -/
theorem test_mode_set_8 : after (inMode 3) 0x1000000000000008 = (inMode 3).putRsp 0x0100000000000000 := by decide
/-- 95 F1, second table, row 8. -/
theorem test_mode_bync_7 : reply (inMode 3) 0x1100000000000007 = some (0, 64, 65679) := by decide
/-- 95 F1 row 1. -/
theorem test_mode_bync_0 : reply State.reset 0x1100000000000000 = some (1, 0, 0) := by decide
/-- 95 F1 row 15. -/
theorem test_mode_bycc_128 : reply State.reset 0x1200000000000080 = some (0, 64, 32894) := by decide
/-- 95 S10. -/
theorem test_mode_bycc_100 : reply State.reset 0x1200000000000064 = some (1, 0, 0) := by decide
/-- 95 F2 row 3; PAL4[0] is black (10_state.md R32). -/
theorem test_pal_color_0 : reply (inMode 1) 0x2000000000000000 = some (0, 0, 0) := by decide
/-- 95 S10. -/
theorem test_pal_color_4 : reply (inMode 1) 0x2000000000000004 = some (6, 0, 0) := by decide
/-- 95 F2, loads, row 11. -/
theorem test_pal_ldrom_mode_2 : reply (inMode 2) 0x2100000000000000 = some (0, 0, 8) := by decide
/-- 95 F2, loads, row 1. -/
theorem test_pal_ldrom_no_mode : reply State.reset 0x2100000000000000 = some (1, 0, 0) := by decide
/-- 95 F2, loads, row 18. -/
theorem test_pal_ldemb_mode_6 : reply (inMode 6) 0x2200000000000000 = some (0, 0, 64) := by decide
/-- 95 S3: PAL.GET 16 in mode 6 has R = 73. -/
theorem test_pal_ldemb_levels : ((after (inMode 6) 0x2200000000000000).w.getD 16 ⟨0, 0, 0⟩).r = 73 := by decide
/-- 95 F2, loads, row 4. -/
theorem test_pal_ldboot : reply State.reset 0x2300000000000000 = some (0, 0, 3) := by decide
/-- 95 F3: W holds 0x090909 at index 1. -/
theorem test_pal_get_1 : reply threeColours 0x2400000000000001 = some (0, 0, 592137) := by decide
/-- 95 F2, loads, row 8: index PALCNT = 3. -/
theorem test_pal_get_3 : reply threeColours 0x2400000000000003 = some (6, 0, 0) := by decide
/-- 41_palette.md R116: no interpolation, val = PALCNT. -/
theorem test_pal_expand_mode_3 : reply (threeColours.setMode 3) 0x2500000000000000 = some (0, 0, 3) := by decide
/-- 95 F2, PAL.EXPAND, row 7. -/
theorem test_pal_expand_length : reply (threeColours.setMode 6) 0x2500000000000000 = some (2, 0, 0) := by decide
/-- 44_embedding.md R151. -/
theorem test_emb_clr : after (State.reset.setEmb [1, 2, 3]) 0x3000000000000000 = State.reset.putRsp 0 := by decide
/-- 95 F3, row 6. -/
theorem test_emb_put : after (State.reset.setEmb [0, 0, 0]) 0x3100000000000009 = (State.reset.setEmb [0, 0, 0, 9]).putRsp 4 := by decide
/-- 44_embedding.md R153. -/
theorem test_emb_get_2 : reply (State.reset.setEmb [1, 2, 3]) 0x3200000000000002 = some (0, 0, 3) := by decide
/-- 44_embedding.md R153: index EMBLEN. -/
theorem test_emb_get_3 : reply (State.reset.setEmb [1, 2, 3]) 0x3200000000000003 = some (6, 0, 0) := by decide
/-- 95 S9 rows 2 to 5. -/
theorem test_emb_enc_mode_1 : (after (inMode 1) 0x3300000000000000).emb.take 3 = [0, 0, 0] := by decide
/-- 95 F5 row 3. -/
theorem test_emb_enc_no_mode : reply State.reset 0x3300000000000000 = some (1, 0, 0) := by decide
/-- 44_embedding.md R155; 95 F3 rows 1 to 12 the other way round. -/
theorem test_emb_encw : (after threeColours 0x3400000000000000).emb = [0, 0, 0, 9, 9, 9, 9, 9, 9] := by decide
/-- 20_memory.md R53. -/
theorem test_emb_dec : (after (State.reset.setEmb [1, 2, 3, 4, 5, 6]) 0x3500000000000000).w = [⟨1, 2, 3⟩, ⟨4, 5, 6⟩] := by decide
/-- 95 S10. -/
theorem test_emb_dec_4 : reply (State.reset.setEmb [1, 2, 3, 4]) 0x3500000000000000 = some (2, 0, 0) := by decide
/-- 44_embedding.md R157: 3 * EC(1) = 12. -/
theorem test_emb_decm_mode_1 : reply ((State.reset.setEmb [1, 2, 3, 4, 5, 6, 7, 8, 9, 10, 11, 12]).setMode 1) 0x3600000000000000 = some (0, 0, 4) := by decide
/-- 95 S10. -/
theorem test_emb_decm_mode_2 : reply ((State.reset.setEmb [1, 2, 3]).setMode 2) 0x3600000000000000 = some (2, 0, 0) := by decide
/-- 95 F3 row 14. -/
theorem test_cls_idx_tie : reply threeColours 0x4000000000050505 = some (0, 48, 1) := by decide
/-- 95 F3 row 1. -/
theorem test_cls_idx_empty : reply State.reset 0x4000000000000000 = some (2, 0, 0) := by decide
/-- 95 S1, nc = 6. -/
theorem test_nc_enc_6 : reply State.reset 0x5000000000000006 = some (0, 0, 20) := by decide
/-- 95 S1, nc = 6. -/
theorem test_nc_dec_6 : reply State.reset 0x5103000000000014 = some (0, 0, 6) := by decide
/-- 95 F4 row 9. -/
theorem test_nc_dec_count_first : reply State.reset 0x5102000000000020 = some (3, 0, 0) := by decide
/-- 30_encoding.md R80's word: (5*5*7) mod 7 + (2*25 + 14) mod 19 = 0 + 7, and 7 mod 8 = 7. -/
theorem test_mask_val_6 : reply State.reset 0x6006000800500700 = some (0, 0, 7) := by decide
/-- 95 S5 row 2. -/
theorem test_mask_val_minus_1 : reply State.reset 0x6000FFFF00000000 = some (5, 0, 0) := by decide
/-- 95 P2 row 16. -/
theorem test_mask_add_7 : reply State.reset 0x6107000800200007 = some (0, 4, 3) := by decide
/-- 95 S5 row 5. -/
theorem test_mask_add_0 : reply State.reset 0x6105000000100203 = some (5, 0, 0) := by decide
/-- 45_masking.md R175 on 95 P2 row 16: (3 - 4) mod 8 = 7. -/
theorem test_mask_sub_7 : reply State.reset 0x6207000800200003 = some (0, 4, 7) := by decide
/-- 95 S5 row 6. -/
theorem test_mask_sub_minus_1 : reply State.reset 0x6205FFFF00100203 = some (5, 0, 0) := by decide
/-- 46_bitstream.md R191. -/
theorem test_pk_rst : after sevenPending 0x7000000000000000 = State.reset.putRsp 0 := by decide
/-- 95 S6 row 8: the eighth bit completes the byte B2; PK_CAP is at least 1. -/
theorem test_pk_write_completes : after (State.reset.setPacker [] 0xB2 7) 0x7101000000000000
    = (State.reset.setPacker [0xB2] 0 0).putRsp 1 := by
  have h : ¬ Config.pkCap < 1 := by simp [Config.pkCap]
  have hx : exec (.pkWrite 0 1) (State.reset.setPacker [] 0xB2 7) = .next ((State.reset.setPacker [0xB2] 0 0).putRsp 1) := by
    exact (if_neg (t := raise .bufferFull (State.reset.setPacker [] 0xB2 7)) h).trans rfl
  have hs : step ((State.reset.setPacker [] 0xB2 7).withFetchWord 64 0x7101000000000000)
      = exec (.pkWrite 0 1) (State.reset.setPacker [] 0xB2 7) := step_command rfl rfl
  rw [after, hs, hx]
/-- 95 S10. -/
theorem test_pk_write_33 : reply State.reset 0x7121000000000001 = some (4, 0, 0) := by decide
/-- 46_bitstream.md R193: PKNB = 0. -/
theorem test_pk_align_empty : reply State.reset 0x7200000000000000 = some (0, 0, 0) := by decide
/-- 46_bitstream.md R193 on 95 P2 row 24's partial byte: it is flushed as it is; PK_CAP is at least 1. -/
theorem test_pk_align_flushes : after (State.reset.setPacker [] 0x80 1) 0x7200000000000000
    = (State.reset.setPacker [0x80] 0 0).putRsp 1 := by
  have h : ¬ Config.pkCap ≤ 0 := by simp [Config.pkCap]
  have hx : exec .pkAlign (State.reset.setPacker [] 0x80 1) = .next ((State.reset.setPacker [0x80] 0 0).putRsp 1) := by
    exact (if_neg (t := raise .bufferFull (State.reset.setPacker [] 0x80 1)) h).trans rfl
  have hs : step ((State.reset.setPacker [] 0x80 1).withFetchWord 64 0x7200000000000000)
      = exec .pkAlign (State.reset.setPacker [] 0x80 1) := step_command rfl rfl
  rw [after, hs, hx]
/-- 95 P1 row 11. -/
theorem test_pk_get_0 : reply sevenPending 0x7300000000000000 = some (0, 0, 163) := by decide
/-- 46_bitstream.md R194: the partial byte is not readable. -/
theorem test_pk_get_1 : reply sevenPending 0x7300000000000001 = some (6, 0, 0) := by decide
/-- 46_bitstream.md R196. -/
theorem test_up_rst : after a0AtBit3 0x7800000000000000 = State.reset.putRsp 0 := by decide
/-- 95 S7 row 2; UP_CAP is at least 1. -/
theorem test_up_put : after State.reset 0x79000000000000A0 = (State.reset.setUpbuf [0xA0]).putRsp 1 := by
  have h : ¬ Config.upCap ≤ 0 := by simp [Config.upCap]
  have hx : exec (.upPut 0xA0) State.reset = .next ((State.reset.setUpbuf [0xA0]).putRsp 1) := by
    show appendUp 0xA0 State.reset = _
    rw [appendUp]; exact if_neg h
  have hs : step (State.reset.withFetchWord 64 0x79000000000000A0) = exec (.upPut 0xA0) State.reset :=
    step_command rfl rfl
  rw [after, hs, hx]
/-- 95 S7 row 4. -/
theorem test_up_read_3 : after (State.reset.setUpbuf [0xA0]) 0x7A03000000000000 = a0AtBit3.putRsp 5 := by decide
/-- 95 S7 row 6. -/
theorem test_up_read_over : after a0AtBit3 0x7A0A000000000000 = (a0AtBit3.setUpcur 8).putRsp 0 := by decide
/-- 95 S7 row 5. -/
theorem test_up_more_1 : reply a0AtBit3 0x7B00000000000000 = some (0, 0, 1) := by decide
/-- 95 S7 row 7. -/
theorem test_up_more_0 : reply (a0AtBit3.setUpcur 8) 0x7B00000000000000 = some (0, 0, 0) := by decide
/-- 46_bitstream.md R200. -/
theorem test_up_rew : after a0AtBit3 0x7C00000000000000 = (State.reset.setUpbuf [0xA0]).putRsp 0 := by decide

/-! ## Hypotheses that can be met

For each statement with hypotheses, a state and operands that meet all of them, clause by clause and at the boundaries. -/

/-- The unit at the end of every range at once: mode 7, a full W, a full EMB, seven pending bits, the cursor at the end. -/
def atTheEnds : State where
  mode := 7
  w := List.replicate 256 ⟨255, 255, 255⟩
  emb := List.replicate 768 0xFF
  pkbuf := [0xFF]
  pkacc := 0xFE
  pknb := 7
  upbuf := [0xFF]
  upcur := 8
  cmds := [0x0100000000000000]
  rsps := []

/-- A packer with no room left and seven pending bits. -/
def fullPacker : State := State.reset.setPacker (List.replicate Config.pkCap 0) 0xFE 7

theorem pkCap_pos : 1 ≤ Config.pkCap := by simp [Config.pkCap]
theorem upCap_pos : 1 ≤ Config.upCap := by simp [Config.upCap]

theorem test_meets_DecodeOfEncode :
    (Instr.maskAdd 7 (-32768) 4095 4095 255).wf = true ∧ (Instr.maskSub 0 32767 0 0 0).wf = true
      ∧ (Instr.pkWrite 0xFFFFFFFF (-128)).wf = true ∧ (Instr.upRead 127).wf = true
      ∧ (Instr.ncDec 255 3 3 3).wf = true ∧ (Instr.modeSet (2 ^ 32 - 1)).wf = true := by decide

theorem test_meets_EncodeOfDecode :
    decode 0x01000000_00000000 = .ok .srst ∧ decode 0x62078000_FFFFFFFF = .ok (.maskSub 7 (-32768) 4095 4095 255) := by
  decide

theorem test_meets_LegalWordsAndIllegalAnswer :
    (presentCommand 0 State.reset).cmds = 0 :: [] ∧ (¬ ∃ i, decode 0 = .ok i)
    ∧ fieldOp 0x7D00000000000000 ∉ rows.map Row.op
    ∧ (∃ row ∈ rows, row.mask = 0xFFFFFFFFFFFFFFFF ∧ fieldOp 0x0100000000000001 = row.op
        ∧ (0x0100000000000001 : Word).extractLsb 55 0 ≠ 0)
    ∧ fieldC 0x7101000100000001 ≠ 0 ∧ fieldOp 0x7101000100000001 = 0x71
    ∧ fieldOp 0x6000000100000001 = 0x60 ∧ (0x6000000100000001 : Word).extractLsb 7 0 ≠ 0
    ∧ decode 0x020A000000000000 = .ok (.csrRd 10) ∧ decode 0x02FF000000000000 = .ok (.csrRd 255) := by
  refine ⟨rfl, ?_, by decide, by decide, by decide, by decide, by decide, by decide, by decide, by decide⟩
  rintro ⟨i, h⟩
  cases h

theorem test_meets_StepRunsDecodedCommand :
    atTheEnds.cmds = 0x0100000000000000 :: [] ∧ decode 0x0100000000000000 = .ok .srst ∧ State.reset.cmds = [] := by
  decide

/-- Also met by a word that is no command. -/
theorem test_meets_OneResponsePerCommand :
    atTheEnds.cmds = 0x0100000000000000 :: [] ∧ (presentCommand 0 State.reset).cmds = 0 :: [] := by decide

theorem test_meets_LaterCommandsDoNotInterfere :
    ∃ t, Host.Core.run Sys2Proof.core (presentCommand 0x0100000000000000 sevenPending).cmds.length
      (presentCommand 0x0100000000000000 sevenPending) = .next t := ⟨State.reset.putRsp 0, rfl⟩

theorem test_meets_CommandsIgnoreThePorts : ∃ t, exec .pkRst atTheEnds = .next t := ⟨_, rfl⟩

/-- Met by a command that succeeds, and by one that is answered with an error. -/
theorem test_meets_ErrorsChangeNothing :
    (∃ t, atTheEnds.cmds = 0x0100000000000000 :: [] ∧ step atTheEnds = .next t)
    ∧ ∃ t, step (presentCommand 0 State.reset) = .next t ∧ t.rsps = [] ++ [rspWord 10 0 0] ∧ rspErr (rspWord 10 0 0) ≠ 0 :=
  ⟨⟨State.reset.putRsp 0, rfl, rfl⟩, State.reset.putRsp (rspWord 10 0 0), rfl, rfl, by decide⟩

theorem atTheEnds_w : atTheEnds.w.length = 256 := List.length_replicate
theorem atTheEnds_emb : atTheEnds.emb.length = 768 := List.length_replicate

theorem atTheEnds_inv : Inv atTheEnds where
  memory := Memory.wf_iff.mpr ⟨atTheEnds_w.le, atTheEnds_emb.le, pkCap_pos, upCap_pos⟩
  packer := by unfold PackerAligned; decide
  cursor := by unfold CursorBounded; decide

theorem test_meets_StepKeepsInvariant : Inv atTheEnds ∧ ∃ t, step atTheEnds = .next t :=
  ⟨atTheEnds_inv, State.reset.putRsp 0, rfl⟩

/-- Each part of the state is changed by some command. -/
theorem test_meets_WritersOfEachPart :
    (∃ t, exec .srst atTheEnds = .next t ∧ t.mode ≠ atTheEnds.mode ∧ t.w ≠ atTheEnds.w ∧ t.emb ≠ atTheEnds.emb
      ∧ t.pkbuf ≠ atTheEnds.pkbuf ∧ t.upbuf ≠ atTheEnds.upbuf ∧ t.upcur ≠ atTheEnds.upcur)
    ∧ (∃ t, exec .pkRst atTheEnds = .next t ∧ t.pkacc ≠ atTheEnds.pkacc ∧ t.pknb ≠ atTheEnds.pknb)
    ∧ ∃ t, exec (.upRead 32) a0AtBit3 = .next t ∧ t.upcur ≠ a0AtBit3.upcur :=
  ⟨⟨_, rfl, by decide⟩, ⟨_, rfl, by decide⟩, _, rfl, by decide⟩

theorem test_meets_PureCommands :
    ((∃ r g b, Instr.clsIdx 5 5 5 = .clsIdx r g b) ∧ threeColours.w = (threeColours.setMode 7).w)
    ∧ (∃ nc, Instr.ncEnc 7 = .ncEnc nc) ∧ (∃ c a b d, Instr.ncDec 3 1 1 1 = .ncDec c a b d)
    ∧ (∃ f m x y, Instr.maskVal 7 1 0 0 = .maskVal f m x y) ∧ (∃ f m x y k, Instr.maskAdd 7 1 0 0 0 = .maskAdd f m x y k)
    ∧ ∃ f m x y k, Instr.maskSub 7 1 0 0 0 = .maskSub f m x y k :=
  ⟨⟨⟨_, _, _, rfl⟩, rfl⟩, ⟨_, rfl⟩, ⟨_, _, _, _, rfl⟩, ⟨_, _, _, _, rfl⟩, ⟨_, _, _, _, _, rfl⟩, _, _, _, _, _, rfl⟩

/-! ### Words of a row: the hypothesis of the decoding clauses -/

theorem test_meets_CsrReadsScalars :
    (0x02FF000000000000 : Word) &&& 0xFF00FFFFFFFFFFFF = 0x0200000000000000 ∧ 10 ≤ 10 ∧ 10 ≤ 255 := by decide

theorem test_meets_ModeSetSelects :
    (0x10000000FFFFFFFF : Word) &&& 0xFFFFFFFF00000000 = 0x1000000000000000 := by decide

theorem test_meets_ModeByNcLooksUp :
    (0x11000000FFFFFFFF : Word) &&& 0xFFFFFFFF00000000 = 0x1100000000000000 := by decide

theorem test_meets_EmbPutAppends :
    (0x31000000000000FF : Word) &&& 0xFFFFFFFFFFFFFF00 = 0x3100000000000000 := by decide

theorem test_meets_NcEncSplitsBits :
    (0x5000000000000007 : Word) &&& 0xFFFFFFFFFFFFFFF8 = 0x5000000000000000 := by decide

theorem test_meets_NcDecJoinsBits :
    (0x51FF00000000003F : Word) &&& 0xFF00FFFFFFFFFFC0 = 0x5100000000000000 := by decide

theorem test_meets_MaskValAnswers :
    (0x6007FFFFFFFFFF00 : Word) &&& 0xFFF80000000000FF = 0x6000000000000000 := by decide

theorem test_meets_MaskAddAnswers :
    (0x6107FFFFFFFFFFFF : Word) &&& 0xFFF8000000000000 = 0x6100000000000000 := by decide

theorem test_meets_UpPutAppends :
    (0x79000000000000FF : Word) &&& 0xFFFFFFFFFFFFFF00 = 0x7900000000000000 := by decide

/-- The decoding clauses of ModeByCcLooksUp, PalColorReadsRom, PalGetReadsW, EmbGetReadsEmb, ClassifierFindsNearest,
MaskSubAnswers, PkWriteClosedForm, PkGetReadsCompleted and UpReadNextBits; their other clauses stand below. -/
theorem test_meets_decoding_clauses :
    (0x12000000FFFFFFFF : Word) &&& 0xFFFFFFFF00000000 = 0x1200000000000000
    ∧ (0x20000000FFFFFFFF : Word) &&& 0xFFFFFFFF00000000 = 0x2000000000000000
    ∧ (0x24000000FFFFFFFF : Word) &&& 0xFFFFFFFF00000000 = 0x2400000000000000
    ∧ (0x32000000FFFFFFFF : Word) &&& 0xFFFFFFFF00000000 = 0x3200000000000000
    ∧ (0x4000000000FFFFFF : Word) &&& 0xFFFFFFFFFF000000 = 0x4000000000000000
    ∧ (0x6207FFFFFFFFFFFF : Word) &&& 0xFFF8000000000000 = 0x6200000000000000
    ∧ (0x71FF0000FFFFFFFF : Word) &&& 0xFF00FFFF00000000 = 0x7100000000000000
    ∧ (0x73000000FFFFFFFF : Word) &&& 0xFFFFFFFF00000000 = 0x7300000000000000
    ∧ (0x7AFF000000000000 : Word) &&& 0xFF00FFFFFFFFFFFF = 0x7A00000000000000 := by decide

/-! ### Registry and palette -/

theorem test_meets_RegistryInvariants :
    ColorMode.colorCount .nc5 ≤ 64 ∧ 64 < ColorMode.colorCount .nc6 := by decide

theorem test_meets_FullPaletteNesting : (1 < 4 ∧ 1 ≤ 1) ∧ (3 < 4 ∧ 1 ≤ 3) ∧ 1 < 2 ∧ 7 < 8 := by decide

theorem test_meets_EmbeddedPaletteIsSubset : 0 < 64 ∧ 63 < 64 ∧ ColorMode.interp .nc5 = false := by decide

theorem test_meets_ModeByCcLooksUp :
    (1 ≤ 1 ∧ 1 ≤ 7) ∧ (1 ≤ 7 ∧ 7 ≤ 7) ∧ 3 ∉ [4, 8, 16, 32, 64, 128, 256] ∧ 257 ∉ [4, 8, 16, 32, 64, 128, 256] := by decide

/-- The hypotheses of the mode clauses: no mode, the first mode, the last mode. -/
theorem test_meets_mode_clauses :
    State.reset.mode = 0 ∧ SelectedIs (inMode 1) .nc1 ∧ SelectedIs (inMode 7) .nc7 := ⟨rfl, rfl, rfl⟩

theorem test_meets_PalColorReadsRom :
    State.reset.mode = 0 ∧ SelectedIs (inMode 1) .nc1 ∧ SelectedIs (inMode 7) .nc7 := test_meets_mode_clauses

theorem test_meets_PalLdRomLoadsFull :
    State.reset.mode = 0 ∧ SelectedIs (inMode 1) .nc1 ∧ SelectedIs (inMode 7) .nc7 := test_meets_mode_clauses

theorem test_meets_PalLdEmbLoadsEmbedded :
    State.reset.mode = 0 ∧ SelectedIs (inMode 7) .nc7 ∧ SelectedIs (inMode 5) .nc5 ∧ ColorMode.ncValue .nc5 ≤ 5 :=
  ⟨rfl, rfl, rfl, by decide⟩

theorem test_meets_PalGetReadsW :
    2 < threeColours.w.length ∧ threeColours.w.length ≤ 3 ∧ State.reset.w.length ≤ 0 := by decide

/-- The embedded palette of a mode as a list. -/
theorem embPalette_holds (n : ColorMode) : HoldsEmbPalette (embPalette n) n := by
  refine ⟨by simp [embPalette], fun e he => ?_⟩
  simp [embPalette, he]

/-- 64 colours of which the first is not black are no embedded palette. -/
theorem white_does_not_hold : ¬ HoldsEmbPalette (List.replicate 64 ⟨255, 255, 255⟩) .nc7 := by
  rintro ⟨-, h⟩
  have h0 := congrArg (fun c => c.map Rgb.r) (h 0 (by decide))
  revert h0
  decide

theorem test_meets_PalExpandReconstructs :
    State.reset.mode = 0
    ∧ (SelectedIs (inMode 5) .nc5 ∧ ColorMode.interp .nc5 = false)
    ∧ (SelectedIs (inMode 6) .nc6 ∧ ColorMode.interp .nc6 = true ∧ (inMode 6).w.length ≠ 64)
    ∧ (SelectedIs ((inMode 7).setW (List.replicate 64 ⟨255, 255, 255⟩)) .nc7 ∧ ColorMode.interp .nc7 = true
        ∧ ((inMode 7).setW (List.replicate 64 ⟨255, 255, 255⟩)).w.length = 64
        ∧ ¬ HoldsEmbPalette ((inMode 7).setW (List.replicate 64 ⟨255, 255, 255⟩)).w .nc7)
    ∧ (SelectedIs ((inMode 7).setW (embPalette .nc7)) .nc7 ∧ ColorMode.interp .nc7 = true
        ∧ HoldsEmbPalette ((inMode 7).setW (embPalette .nc7)).w .nc7) :=
  ⟨rfl, ⟨rfl, rfl⟩, ⟨rfl, rfl, by decide⟩, ⟨rfl, rfl, by decide, white_does_not_hold⟩, rfl, rfl, embPalette_holds _⟩

theorem test_meets_DecodePathRebuildsPalette :
    (SelectedIs (inMode 6) .nc6 ∧ ColorMode.interp .nc6 = true) ∧ SelectedIs (inMode 7) .nc7 ∧ ColorMode.interp .nc7 = true :=
  ⟨⟨rfl, rfl⟩, rfl, rfl⟩

/-! ### Serializer -/

theorem test_meets_EmbGetReadsEmb :
    767 < atTheEnds.emb.length ∧ atTheEnds.emb.length ≤ 768 ∧ State.reset.emb.length ≤ 0 := by
  rw [atTheEnds_emb]; decide

theorem test_meets_EmbEncSerialisesEmbedded :
    State.reset.mode = 0 ∧ SelectedIs (inMode 1) .nc1 ∧ SelectedIs (inMode 7) .nc7 := test_meets_mode_clauses

theorem test_meets_EmbDecDecodes :
    (State.reset.setEmb [1]).emb.length % 3 ≠ 0 ∧ (State.reset.setEmb [1, 2]).emb.length % 3 ≠ 0
    ∧ State.reset.emb.length % 3 = 0 ∧ atTheEnds.emb.length % 3 = 0 := by
  rw [atTheEnds_emb]; decide

theorem test_meets_EmbDecMChecksMode :
    State.reset.mode = 0
    ∧ (SelectedIs atTheEnds .nc7 ∧ atTheEnds.emb.length ≠ 3 * ColorMode.embeddedCount .nc7)
    ∧ (SelectedIs (atTheEnds.setEmb (List.replicate 192 0)) .nc7
        ∧ (atTheEnds.setEmb (List.replicate 192 0)).emb.length = 3 * ColorMode.embeddedCount .nc7) :=
  ⟨rfl, ⟨rfl, by rw [atTheEnds_emb]; decide⟩, rfl, List.length_replicate⟩

theorem test_meets_SerializerRoundTrips :
    SelectedIs (inMode 1) .nc1 ∧ SelectedIs (inMode 7) .nc7 ∧ Instr.embDec ∈ [Instr.embDec, .embDecM]
    ∧ Instr.embDecM ∈ [Instr.embDec, .embDecM] ∧ atTheEnds.emb.length % 3 = 0 :=
  ⟨rfl, rfl, by decide, by decide, by rw [atTheEnds_emb]⟩

/-! ### Classifier, Nc codec, masking -/

theorem test_meets_ClassifierFindsNearest : State.reset.w = [] ∧ threeColours.w ≠ [] := by decide

/-- The level tables and the four colours are open; a table that meets the hypothesis is one that the spec admits. -/
theorem test_meets_ClassifierExactMatch :
    (2 < (State.reset.setW [⟨0, 0, 0⟩, ⟨0, 255, 255⟩, ⟨255, 255, 0⟩]).w.length
      ∧ (State.reset.setW [⟨0, 0, 0⟩, ⟨0, 255, 255⟩, ⟨255, 255, 0⟩]).w.Nodup)
    ∧ (∃ f : BitVec 2 → Rgb, f 0 = ⟨0, 0, 0⟩ ∧ Function.Injective f)
    ∧ (∃ f : BitVec 1 → Byte, Function.Injective f) ∧ ∃ f : BitVec 2 → Byte, Function.Injective f := by
  refine ⟨by decide, ⟨fun k => ⟨0, 0, BitVec.setWidth 8 k⟩, rfl, ?_⟩, ⟨BitVec.setWidth 8, ?_⟩, BitVec.setWidth 8, ?_⟩
  · intro a b; revert a b; decide
  · intro a b; revert a b; decide
  · intro a b; revert a b; decide

theorem test_meets_MaskFunctions : (4095 : Nat) ≤ 4095 ∧ (1 : Nat) ≤ 1 := by decide

theorem test_meets_MaskSubAnswers : (0 : Int) ≤ 0 ∧ (-32768 : Int) ≤ 0 ∧ 1 ≤ 1 := by decide

/-- The hypotheses of the two directions, at modulus 1 and 256, and the answers they start from. -/
theorem test_meets_MaskRoundTrip :
    answer (exec (.maskAdd 1 8 3 0 6) State.reset) = some (0, 3, 1)
    ∧ answer (exec (.maskSub 1 8 3 0 1) State.reset) = some (0, 3, 6)
    ∧ answer (exec (.maskAdd 1 256 3 0 255) State.reset) = some (0, 3, 2)
    ∧ answer (exec (.maskSub 1 1 3 0 0) State.reset) = some (0, 0, 0)
    ∧ (1 ≤ 8 ∧ 8 ≤ 32767 ∧ 6 < 8 ∧ 6 ≤ 255 ∧ 1 ≤ 255) ∧ (1 ≤ 256 ∧ 256 ≤ 256 ∧ 255 < 256) ∧ 0 < 1 := by decide

/-! ### Packer and unpacker -/

theorem fullPacker_length : fullPacker.pkbuf.length = Config.pkCap := by simp [fullPacker]

/-- Widths 1 and 32 in the range, 0 and 33 out of it; no room for the byte that a write completes; room for it. -/
theorem test_meets_PkWriteClosedForm :
    ((0 : Int) < 1 ∨ 32 < (0 : Int)) ∧ ((33 : Int) < 1 ∨ 32 < (33 : Int))
    ∧ Config.pkCap < fullPacker.pkbuf.length + (fullPacker.pknb.toNat + 1) / 8
    ∧ Config.pkCap < fullPacker.pkbuf.length + (fullPacker.pknb.toNat + 32) / 8
    ∧ (PackerAligned State.reset ∧ State.reset.pkbuf.length + (State.reset.pknb.toNat + 1) / 8 ≤ Config.pkCap)
    ∧ PackerAligned (State.reset.setPacker [] 0xFE 7)
    ∧ (State.reset.setPacker [] 0xFE 7).pkbuf.length + ((State.reset.setPacker [] 0xFE 7).pknb.toNat + 1) / 8 ≤ Config.pkCap := by
  refine ⟨by decide, by decide, ?_, ?_, ⟨rfl, ?_⟩, rfl, ?_⟩
  · rw [fullPacker_length]; simp [fullPacker]
  · rw [fullPacker_length]; simp [fullPacker]
  · exact Nat.zero_le _
  · exact pkCap_pos

theorem test_meets_PkGetReadsCompleted :
    0 < sevenPending.pkbuf.length ∧ sevenPending.pkbuf.length ≤ 1 ∧ State.reset.pkbuf.length ≤ 0 := by decide

theorem test_meets_PackerStreamGrows :
    (State.reset.setPacker [] 0xFF 7).pkbuf.length + ((State.reset.setPacker [] 0xFF 7).pknb.toNat + 1) / 8 ≤ Config.pkCap
    ∧ ∃ t, exec .pkAlign (State.reset.setPacker [] 0xA8 0) = .next t ∧ Instr.pkAlign ≠ .pkRst ∧ Instr.pkAlign ≠ .srst :=
  ⟨pkCap_pos, _, rfl, by decide, by decide⟩

theorem test_meets_UpReadNextBits :
    ((0 : Int) < 1 ∨ 32 < (0 : Int)) ∧ ((33 : Int) < 1 ∨ 32 < (33 : Int)) ∧ (1 ≤ 1 ∧ 1 ≤ 32) ∧ (1 ≤ 32 ∧ 32 ≤ 32) := by
  decide

/-- Eight bits in writes of 1, 3 and 4: they fit whatever the capacities are. -/
theorem test_meets_BitStreamRoundTrip :
    (∀ p ∈ ([(1, 1), (6, 3), (0xFFFFFFFF, 4)] : List (BitVec 32 × Nat)), 1 ≤ p.2 ∧ p.2 ≤ 32)
    ∧ (([(1, 1), (6, 3), (0xFFFFFFFF, 4)] : List (BitVec 32 × Nat)).map Prod.snd).sum ≤ 8 * Config.pkCap
    ∧ (([(1, 1), (6, 3), (0xFFFFFFFF, 4)] : List (BitVec 32 × Nat)).map Prod.snd).sum ≤ 8 * Config.upCap
    ∧ State.reset.pkbuf = [] ∧ State.reset.pknb = 0 ∧ State.reset.pkacc = 0 := by
  have h1 := pkCap_pos
  have h2 := upCap_pos
  refine ⟨by decide, ?_, ?_, rfl, rfl, rfl⟩
  · show 8 ≤ _; omega
  · show 8 ≤ _; omega

theorem test_meets_WidthIndependence :
    State.reset.pkbuf.length + (State.reset.pknb.toNat + 8) / 8 ≤ Config.pkCap ∧ (0 < 1 ∧ 1 < 2 ∧ 8 ≤ 32)
    ∧ (0 < 7 ∧ 7 < 8) ∧ (State.reset.setUpbuf [0xA0]).upcur + 8 ≤ 8 * (State.reset.setUpbuf [0xA0]).upbuf.length := by
  refine ⟨?_, by decide, by decide, by decide⟩
  exact pkCap_pos

end Sys2Proof.Tests
end

section
/-! PROOFS. The commands that hold no state (10_state.md R40): each answers a word computed from its operands, CLS.IDX
from its operands and W, and changes nothing but the response port. -/

namespace Sys2Proof.Machine

/-- The answer of a command that rejects its operands with `e` or answers two results of the checked operand. -/
def checkedRsp (e : ErrorKind) (aux val : Nat → Nat) : Option Nat → Word
  | none => rspWord e.code 0 0
  | some k => rspWord 0 (aux k) (val k)

/-- The answer of CLS.IDX for a colour and a working palette (42_classifier.md R130). -/
def classifierRsp (c : Rgb) : List Rgb → Word
  | [] => rspWord ErrorKind.invalidPaletteLength.code 0 0
  | q :: rest => rspWord 0 (nearest c rest 1 (0, colorDist c q)).2 (nearest c rest 1 (0, colorDist c q)).1

/-- The answer of NC.DEC, the index count checked first (43_nc_codec.md R142). -/
def ncDecRsp (cnt i0 i1 i2 : Nat) : Word :=
  if cnt ≠ 3 then rspWord ErrorKind.invalidIndexCount.code 0 0
  else checkedRsp .invalidIndexValue (fun _ => 0) id (bootstrapBits i0 i1 i2)

theorem exec_clsIdx (r g b : Byte) (s : State) :
    exec (.clsIdx r g b) s = .next (s.putRsp (classifierRsp ⟨r, g, b⟩ s.w)) := by
  change execClsIdx r g b s = _
  unfold execClsIdx
  cases s.w <;> rfl

theorem exec_ncEnc (nc : BitVec 3) (s : State) :
    exec (.ncEnc nc) s = .next (s.putRsp (rspWord 0 0 (ncIndices nc))) := rfl

theorem exec_ncDec (cnt i0 i1 i2 : Nat) (s : State) :
    exec (.ncDec cnt i0 i1 i2) s = .next (s.putRsp (ncDecRsp cnt i0 i1 i2)) := by
  change execNcDec cnt i0 i1 i2 s = _
  unfold execNcDec ncDecRsp
  by_cases hcnt : cnt ≠ 3
  · rw [if_pos hcnt, if_pos hcnt]; rfl
  · rw [if_neg hcnt, if_neg hcnt]
    cases bootstrapBits i0 i1 i2 <;> rfl

theorem exec_maskVal (ref : BitVec 3) (m : Int) (x y : Nat) (s : State) :
    exec (.maskVal ref m x y) s
      = .next (s.putRsp (checkedRsp .invalidModulus (fun _ => 0) (maskAt x y ref) (modulus m))) := by
  change execMaskVal ref m x y s = _
  unfold execMaskVal
  cases modulus m <;> rfl

theorem exec_maskAdd (ref : BitVec 3) (m : Int) (x y idx : Nat) (s : State) :
    exec (.maskAdd ref m x y idx) s
      = .next (s.putRsp (checkedRsp .invalidModulus (maskAt x y ref) (fun k => (idx + maskAt x y ref k) % k)
          (modulus m))) := by
  change execMaskAdd ref m x y idx s = _
  unfold execMaskAdd
  cases modulus m <;> rfl

theorem exec_maskSub (ref : BitVec 3) (m : Int) (x y idx : Nat) (s : State) :
    exec (.maskSub ref m x y idx) s
      = .next (s.putRsp (checkedRsp .invalidModulus (maskAt x y ref)
          (fun k => (((idx : Int) - maskAt x y ref k) % (k : Int)).toNat) (modulus m))) := by
  change execMaskSub ref m x y idx s = _
  unfold execMaskSub
  cases modulus m <;> rfl

/-- Settles O16: the answer of each of the six commands is written out without the state, for CLS.IDX with W alone. -/
theorem pureCommands : Obligations.PureCommands := by
  intro i s s' h
  obtain ⟨⟨r, g, b, rfl⟩, hw⟩ | ⟨nc, rfl⟩ | ⟨cnt, i0, i1, i2, rfl⟩ | ⟨ref, m, x, y, rfl⟩ | ⟨ref, m, x, y, idx, rfl⟩
    | ⟨ref, m, x, y, idx, rfl⟩ := h
  · exact ⟨_, exec_clsIdx r g b s, hw ▸ exec_clsIdx r g b s'⟩
  · exact ⟨_, exec_ncEnc nc s, exec_ncEnc nc s'⟩
  · exact ⟨_, exec_ncDec cnt i0 i1 i2 s, exec_ncDec cnt i0 i1 i2 s'⟩
  · exact ⟨_, exec_maskVal ref m x y s, exec_maskVal ref m x y s'⟩
  · exact ⟨_, exec_maskAdd ref m x y idx s, exec_maskAdd ref m x y idx s'⟩
  · exact ⟨_, exec_maskSub ref m x y idx s, exec_maskSub ref m x y idx s'⟩

end Sys2Proof.Machine
end

section
/-! PROOFS. The nesting of a full palette's index (10_state.md R34): the bit fields that the palette ROM reads from an index
built of three level numbers are those level numbers. -/

namespace Sys2Proof.Machine

/-- The index (ri*ng + gi)*nb + bi of R34, for ng = 2^kg and nb = 2^kb. -/
def nestedIndex (kg kb ri gi bi : Nat) : BitVec 8 := BitVec.ofNat 8 ((ri * 2 ^ kg + gi) * 2 ^ kb + bi)

/-- A bit field inside an 8-bit number is a quotient of that number. -/
theorem extractLsb'_ofNat_byte (n : Nat) {lo len : Nat} (h : lo + len ≤ 8) :
    (BitVec.ofNat 8 n).extractLsb' lo len = BitVec.ofNat len (n / 2 ^ lo) := by
  apply BitVec.eq_of_getLsbD_eq
  intro k hk
  have hlt : lo + k < 8 := by omega
  simp only [BitVec.getLsbD_extractLsb', BitVec.getLsbD_ofNat, Nat.testBit_div_two_pow, hk, hlt, decide_true,
    Bool.true_and, Nat.add_comm]

theorem mul_two_pow_add_div {w d : Nat} (a : Nat) (hd : d < 2 ^ w) : (a * 2 ^ w + d) / 2 ^ w = a := by
  rw [Nat.mul_comm, Nat.mul_add_div (Nat.two_pow_pos w), Nat.div_eq_of_lt hd, Nat.add_zero]

theorem ofNat_mul_two_pow_add (w a d : Nat) : BitVec.ofNat w (a * 2 ^ w + d) = BitVec.ofNat w d := by
  apply BitVec.eq_of_toNat_eq
  rw [BitVec.toNat_ofNat, BitVec.toNat_ofNat, Nat.mul_add_mod']

/-- The B field is the least significant. -/
theorem nestedIndex_blue {kg kb : Nat} (ri gi bi : Nat) (hwidth : kb ≤ 8) :
    (nestedIndex kg kb ri gi bi).extractLsb' 0 kb = BitVec.ofNat kb bi := by
  rw [nestedIndex, extractLsb'_ofNat_byte _ (by omega), pow_zero, Nat.div_one, ofNat_mul_two_pow_add]

/-- The G field stands above the B field. -/
theorem nestedIndex_green {kg kb bi : Nat} (ri gi : Nat) (hwidth : kb + kg ≤ 8) (hb : bi < 2 ^ kb) :
    (nestedIndex kg kb ri gi bi).extractLsb' kb kg = BitVec.ofNat kg gi := by
  rw [nestedIndex, extractLsb'_ofNat_byte _ hwidth, mul_two_pow_add_div _ hb, ofNat_mul_two_pow_add]

/-- The R field stands above the other two; its level number needs no bound, for the field cuts it off. -/
theorem nestedIndex_red {kr kg kb gi bi : Nat} (ri : Nat) (hwidth : kb + kg + kr ≤ 8) (hg : gi < 2 ^ kg)
    (hb : bi < 2 ^ kb) : (nestedIndex kg kb ri gi bi).extractLsb' (kb + kg) kr = BitVec.ofNat kr ri := by
  rw [nestedIndex, extractLsb'_ofNat_byte _ hwidth, Nat.pow_add, ← Nat.div_div_eq_div_mul, mul_two_pow_add_div _ hb,
    mul_two_pow_add_div _ hg]

/-- The colour that the level tables `R`, `G`, `B` give for the fields of a nested index is that of its level numbers. -/
theorem rgb_of_nestedIndex {kr kg kb gi bi : Nat} (R : BitVec kr → Byte) (G : BitVec kg → Byte) (B : BitVec kb → Byte)
    (ri : Nat) (hwidth : kb + kg + kr ≤ 8) (hg : gi < 2 ^ kg) (hb : bi < 2 ^ kb) :
    (⟨R ((nestedIndex kg kb ri gi bi).extractLsb' (kb + kg) kr), G ((nestedIndex kg kb ri gi bi).extractLsb' kb kg),
      B ((nestedIndex kg kb ri gi bi).extractLsb' 0 kb)⟩ : Rgb)
      = ⟨R (BitVec.ofNat kr ri), G (BitVec.ofNat kg gi), B (BitVec.ofNat kb bi)⟩ := by
  rw [nestedIndex_red ri hwidth hg hb, nestedIndex_green ri gi (by omega) hb, nestedIndex_blue ri gi bi (by omega)]

theorem romFull_nc1_zero : romFull .nc1 0 = ⟨0, 0, 0⟩ := rfl

/-- The 4-colour palette past index 0 is the open table. -/
theorem romFull_nc1_open {k : Nat} (hk : k < 4) (hpos : 1 ≤ k) :
    romFull .nc1 (BitVec.ofNat 8 k) = Config.pal4Open (BitVec.ofNat 2 k) := by
  have hfield : (BitVec.ofNat 8 k).extractLsb' 0 2 = BitVec.ofNat 2 k := by
    rw [extractLsb'_ofNat_byte k (by decide), pow_zero, Nat.div_one]
  have hne : BitVec.ofNat 2 k ≠ 0 := by bv_omega
  calc romFull .nc1 (BitVec.ofNat 8 k) = pal4 (BitVec.ofNat 2 k) := congrArg pal4 hfield
    _ = Config.pal4Open (BitVec.ofNat 2 k) := if_neg hne

/-- Settles O23: mode 1 is its table, and in modes 2 to 7 an index is three fields of 1, 2 or 3 bits. -/
theorem fullPaletteNesting : Obligations.FullPaletteNesting := by
  refine ⟨⟨romFull_nc1_zero, fun k hk hpos => romFull_nc1_open hk hpos⟩, ?nc2, ?nc3, ?nc4, ?nc5, ?nc6, ?nc7⟩
  case nc2 => exact fun ri _ _ hg _ hb => rgb_of_nestedIndex Config.lvl2 Config.lvl2 Config.lvl2 ri (by decide) hg hb
  case nc3 => exact fun ri _ _ hg _ hb => rgb_of_nestedIndex Config.lvl4 Config.lvl2 Config.lvl2 ri (by decide) hg hb
  case nc4 => exact fun ri _ _ hg _ hb => rgb_of_nestedIndex Config.lvl4 Config.lvl4 Config.lvl2 ri (by decide) hg hb
  case nc5 => exact fun ri _ _ hg _ hb => rgb_of_nestedIndex Config.lvl4 Config.lvl4 Config.lvl4 ri (by decide) hg hb
  case nc6 => exact fun ri _ _ hg _ hb => rgb_of_nestedIndex lvl8 Config.lvl4 Config.lvl4 ri (by decide) hg hb
  case nc7 => exact fun ri _ _ hg _ hb => rgb_of_nestedIndex lvl8 lvl8 Config.lvl4 ri (by decide) hg hb

end Sys2Proof.Machine
end

section
/-! PROOFS. Which words are commands (30_encoding.md R76): legality read through the opcode map, the bits that a row
reserves, and the answer to a word that is no command. -/

namespace Sys2Proof

/-- A word is legal exactly when it fits a row of the opcode map (R76). -/
theorem legal_iff_fits (w : Word) :
    (∃ i, decode w = .ok i) ↔ ∃ row ∈ rows, fieldOp w = row.op ∧ w &&& row.mask = row.fixed := by
  constructor
  · rintro ⟨i, hdec⟩
    obtain ⟨row, hmem, hfits, -⟩ := fits_of_decode hdec
    exact ⟨row, hmem, fieldOp_of_fits hmem hfits, hfits⟩
  · rintro ⟨row, hmem, -, hfits⟩
    exact ⟨row.build w, decode_of_fits hmem hfits⟩

theorem illegal_of_unknownOp {w : Word} (hop : fieldOp w ∉ rows.map Row.op) : ¬ ∃ i, decode w = .ok i := by
  rw [legal_iff_fits]
  rintro ⟨row, hmem, heq, -⟩
  exact hop (heq ▸ List.mem_map_of_mem hmem)

/-- An opcode names its row. -/
theorem row_unique {row row' : Row} (h : row ∈ rows) (h' : row' ∈ rows) (hop : row.op = row'.op) : row = row' :=
  List.inj_on_of_nodup_map rows_opcodes_nodup h h' hop

/-! ## Reserved bits -/

/-- The row's mask covers the bits `hi` to `lo`, and its match word has zeros there (R71, R75). -/
def Row.reserves (row : Row) (hi lo : Nat) : Bool :=
  row.mask.extractLsb hi lo == BitVec.allOnes _ && row.fixed.extractLsb hi lo == 0

/-- A word that fits a row has zeros where the row reserves bits. -/
theorem extractLsb_eq_zero_of_fits {row : Row} {w : Word} {hi lo : Nat} (hfits : w &&& row.mask = row.fixed)
    (hres : row.reserves hi lo = true) : w.extractLsb hi lo = 0 := by
  simp only [Row.reserves, Bool.and_eq_true, beq_iff_eq] at hres
  obtain ⟨hmask, hfixed⟩ := hres
  calc w.extractLsb hi lo = w.extractLsb hi lo &&& row.mask.extractLsb hi lo := by rw [hmask, BitVec.and_allOnes]
    _ = (w &&& row.mask).extractLsb hi lo := BitVec.extractLsb_and.symm
    _ = 0 := by rw [hfits, hfixed]

/-- A word with a bit set where the row of its opcode reserves bits is no command. -/
theorem illegal_of_reserved {w : Word} {hi lo : Nat}
    (hres : ∀ row ∈ rows, fieldOp w = row.op → row.reserves hi lo = true) (hbits : w.extractLsb hi lo ≠ 0) :
    ¬ ∃ i, decode w = .ok i := by
  rw [legal_iff_fits]
  rintro ⟨row, hmem, hop, hfits⟩
  exact hbits (extractLsb_eq_zero_of_fits hfits (hres row hmem hop))

/-- Format Z reserves everything below op (R71). -/
theorem reserves_of_fullMask : ∀ row ∈ rows, row.mask = 0xFFFFFFFFFFFFFFFF → row.reserves 55 0 = true := by decide

/-- Only the masking commands use field c (R71, R75). -/
theorem reserves_c : ∀ row ∈ rows, row.op ≠ 0x60 → row.op ≠ 0x61 → row.op ≠ 0x62 → row.reserves 47 32 = true := by decide

/-- MASK.VAL has no colour index (R71, R75). -/
theorem maskVal_reserves_index : ∀ row ∈ rows, row.op = 0x60 → row.reserves 7 0 = true := by decide

theorem illegal_of_formatZ {row : Row} (hmem : row ∈ rows) (hmask : row.mask = 0xFFFFFFFFFFFFFFFF) {w : Word}
    (hop : fieldOp w = row.op) (hbits : w.extractLsb 55 0 ≠ 0) : ¬ ∃ i, decode w = .ok i := by
  refine illegal_of_reserved (fun row' hmem' hop' => ?_) hbits
  obtain rfl := row_unique hmem hmem' (hop.symm.trans hop')
  exact reserves_of_fullMask row hmem hmask

theorem illegal_of_fieldC {w : Word} (hval : fieldOp w ≠ 0x60) (hadd : fieldOp w ≠ 0x61) (hsub : fieldOp w ≠ 0x62)
    (hc : fieldC w ≠ 0) : ¬ ∃ i, decode w = .ok i :=
  illegal_of_reserved (hi := 47) (lo := 32)
    (fun row hmem hop => reserves_c row hmem (hop ▸ hval) (hop ▸ hadd) (hop ▸ hsub)) hc

theorem illegal_of_maskVal_index {w : Word} (hop : fieldOp w = 0x60) (hidx : w.extractLsb 7 0 ≠ 0) :
    ¬ ∃ i, decode w = .ok i :=
  illegal_of_reserved (fun row hmem hrow => maskVal_reserves_index row hmem (hrow.symm.trans hop)) hidx

end Sys2Proof

namespace Sys2Proof.Machine

/-- A step on a word that is no command answers IllegalCommand, whichever bit makes it so (R76). -/
theorem step_illegal {s : State} {w : Word} {rest : List Word} (hcmds : s.cmds = w :: rest)
    (hill : ¬ ∃ i, decode w = .ok i) : step s = .next ((s.setCmds rest).putRsp (rspWord 10 0 0)) := by
  cases hdec : decode w with
  | ok i => exact absurd ⟨i, hdec⟩ hill
  | error r => exact step_reject hcmds hdec

/-- CSR numbers from 10 on are reserved (10_state.md R28). -/
theorem csrValue_reserved (s : State) {n : Nat} (hn : 10 ≤ n) : csrValue s n = none := by
  obtain ⟨k, rfl⟩ := Nat.exists_eq_add_of_le' hn
  rfl

theorem exec_csrRd_reserved (s : State) {n : Nat} (hn : 10 ≤ n) :
    exec (.csrRd n) s = .next (s.putRsp (rspWord 10 0 0)) := by
  change execCsrRd n s = _
  rw [execCsrRd, csrValue_reserved s hn]
  rfl

/-- Settles O3: the decoder read through the opcode map; each particular case is an unknown opcode or a reserved bit. -/
theorem legalWordsAndIllegalAnswer : Obligations.LegalWordsAndIllegalAnswer := by
  refine ⟨legal_iff_fits, rfl, ?answer, ?unknownOp, ?zeroWord, ?onesWord, ?formatZ, ?fieldC, ?maskVal, ?csrRd⟩
  case answer => exact fun _ _ _ hcmds hill => step_illegal hcmds hill
  case unknownOp => exact fun _ hop => illegal_of_unknownOp hop
  case zeroWord => exact illegal_of_unknownOp (by decide)
  case onesWord => exact illegal_of_unknownOp (by decide)
  case formatZ => exact fun _ hmem hmask _ hop hbits => illegal_of_formatZ hmem hmask hop hbits
  case fieldC => exact fun _ hval hadd hsub hc => illegal_of_fieldC hval hadd hsub hc
  case maskVal => exact fun _ hop hidx => illegal_of_maskVal_index hop hidx
  case csrRd => exact fun s _ hn _ => exec_csrRd_reserved s hn

end Sys2Proof.Machine
end

section
/-! PROOFS. The ColorMode registry (10_state.md R30, R31): the colour count is 2 to the bits per module and fixes
the other columns, and there are two lookups, each of which finds the mode whose key it is given. -/

namespace Sys2Proof.Machine

/-! ## The columns (R31) -/

theorem ColorMode.bitsPerModule_bounds (n : ColorMode) : 2 ≤ n.bitsPerModule ∧ n.bitsPerModule ≤ 8 := by
  cases n <;> decide

theorem ColorMode.colorCount_eq_two_pow (n : ColorMode) : n.colorCount = 2 ^ n.bitsPerModule := by
  cases n <;> rfl

theorem ColorMode.colorCount_bounds (n : ColorMode) : 4 ≤ n.colorCount ∧ n.colorCount ≤ 256 := by
  obtain ⟨hlow, hhigh⟩ := n.bitsPerModule_bounds
  rw [n.colorCount_eq_two_pow]
  exact ⟨Nat.pow_le_pow_right two_pos hlow, Nat.pow_le_pow_right two_pos hhigh⟩

/-- The bits per module are the ceiling of the logarithm of the colour count: the count is a power of two. -/
theorem ColorMode.bitsPerModule_eq_clog (n : ColorMode) : n.bitsPerModule = Nat.clog 2 n.colorCount := by
  rw [n.colorCount_eq_two_pow, Nat.clog_pow 2 _ one_lt_two]

theorem ColorMode.interp_iff (n : ColorMode) : n.interp = true ↔ 64 < n.colorCount := by
  cases n <;> decide

theorem ColorMode.embeddedCount_eq_min (n : ColorMode) : n.embeddedCount = min n.colorCount 64 := by
  cases n <;> rfl

/-! ## The lookups -/

theorem modeOfNc_ncValue (n : ColorMode) : modeOfNc n.ncValue = some n := by
  cases n <;> rfl

theorem modeOfCount_colorCount (n : ColorMode) : modeOfCount n.colorCount = some n := by
  cases n <;> rfl

/-- MODE.BYNC of a mode's ncValue answers its descriptor (40_mode_registry.md R102). -/
theorem exec_modeByNc_ncValue (n : ColorMode) (s : State) :
    exec (.modeByNc n.ncValue) s = respondDescriptor n s := by
  change execModeByNc n.ncValue s = _
  rw [execModeByNc, modeOfNc_ncValue]

/-- MODE.BYCC of a mode's colour count answers its descriptor (40_mode_registry.md R103). -/
theorem exec_modeByCc_colorCount (n : ColorMode) (s : State) :
    exec (.modeByCc n.colorCount) s = respondDescriptor n s := by
  change execModeByCc n.colorCount s = _
  rw [execModeByCc, modeOfCount_colorCount]

/-- Settles O22: the colour count is 2 to the bits per module and fixes the other columns, and both lookups end in the
descriptor of the same mode. -/
theorem registryInvariants : Obligations.RegistryInvariants := by
  intro n
  obtain ⟨hlow, hhigh⟩ := n.colorCount_bounds
  refine ⟨n.bitsPerModule_eq_clog, ⟨_, n.colorCount_eq_two_pow⟩, hlow, hhigh, n.interp_iff, ?small, ?large, ?lookups⟩
  case small => exact fun hcount => n.embeddedCount_eq_min.trans (min_eq_left hcount)
  case large => exact fun hcount => n.embeddedCount_eq_min.trans (min_eq_right hcount.le)
  case lookups => exact fun s => (exec_modeByCc_colorCount n s).trans (exec_modeByNc_ncValue n s).symm

end Sys2Proof.Machine
end

section
/-! PROOFS. The palette commands (41_palette.md R111 to R116): a command that needs a mode is its meaning at the
selected mode, a list holds a palette of the ROM exactly when it is that palette, and a colour's response is a base-256
number. -/

namespace Sys2Proof.Machine

open Sys2Proof.Safety

/-! ## The selected mode (10_state.md R22) -/

theorem selectedMode_of_noMode {s : State} (hmode : s.mode = 0) : selectedMode s = none := by
  rw [selectedMode, hmode]
  rfl

theorem ColorMode.ncValue_le (n : ColorMode) : n.ncValue ≤ 7 := by
  cases n <;> decide

theorem selectedMode_of_selectedIs {s : State} {n : ColorMode} (hmode : SelectedIs s n) : selectedMode s = some n := by
  have hfits : n.ncValue < 2 ^ 3 := Nat.lt_succ_of_le n.ncValue_le
  rw [selectedMode, hmode, BitVec.toNat_ofNat, Nat.mod_eq_of_lt hfits, modeOfNc_ncValue]

/-- A command that needs a mode: `f` at the selected mode, UnsupportedColorMode when there is none. -/
def withMode (s : State) (f : ColorMode → Result) : Result :=
  match selectedMode s with
  | none => raise .unsupportedColorMode s
  | some n => f n

theorem withMode_of_noMode {s : State} (f : ColorMode → Result) (hmode : s.mode = 0) :
    withMode s f = .next (s.putRsp (rspWord 1 0 0)) := by
  rw [withMode, selectedMode_of_noMode hmode]
  rfl

theorem withMode_of_selectedIs {s : State} {n : ColorMode} (f : ColorMode → Result) (hmode : SelectedIs s n) :
    withMode s f = f n := by
  rw [withMode, selectedMode_of_selectedIs hmode]

/-! ## The palettes of the ROM (10_state.md R34, R35) -/

/-- A list given entry by entry is the table of its entries. -/
theorem eq_map_range_iff {α : Type} {p : List α} {k : Nat} {f : Nat → α} :
    p = (List.range k).map f ↔ p.length = k ∧ ∀ i < k, p[i]? = some (f i) := by
  constructor
  · rintro rfl
    exact ⟨by simp, fun i hi => by simp [hi]⟩
  · rintro ⟨hlen, hentry⟩
    apply List.ext_getElem?
    intro i
    by_cases hi : i < k
    · simp [hentry i hi, hi]
    · rw [List.getElem?_eq_none (by omega), List.getElem?_eq_none (by simp; omega)]

theorem holdsFullPalette_iff {p : List Rgb} {n : ColorMode} : HoldsFullPalette p n ↔ p = fullPalette n :=
  eq_map_range_iff.symm

theorem holdsEmbPalette_iff {p : List Rgb} {n : ColorMode} : HoldsEmbPalette p n ↔ p = embPalette n :=
  eq_map_range_iff.symm

theorem fullPalette_length (n : ColorMode) : (fullPalette n).length = n.colorCount := by
  simp [fullPalette]

theorem embPalette_length (n : ColorMode) : (embPalette n).length = n.embeddedCount := by
  simp [embPalette]

theorem ColorMode.interp_eq_false_iff (n : ColorMode) : n.interp = false ↔ n.ncValue ≤ 5 := by
  cases n <;> decide

theorem ColorMode.embeddedCount_of_interp {n : ColorMode} (hinterp : n.interp = true) : n.embeddedCount = 64 :=
  n.embeddedCount_eq_min.trans (min_eq_right (n.interp_iff.mp hinterp).le)

theorem ColorMode.embeddedCount_of_noInterp {n : ColorMode} (hinterp : n.interp = false) :
    n.embeddedCount = n.colorCount := by
  have hcount : ¬ 64 < n.colorCount := fun hlarge => by simp [n.interp_iff.mpr hlarge] at hinterp
  exact n.embeddedCount_eq_min.trans (min_eq_left (not_lt.mp hcount))

theorem romEmb_of_noInterp {n : ColorMode} (hinterp : n.interp = false) : romEmb n = romFull n := by
  cases n with
  | nc6 | nc7 => cases hinterp
  | nc1 | nc2 | nc3 | nc4 | nc5 => rfl

/-- Without interpolation a mode has one palette (10_state.md R35). -/
theorem embPalette_of_noInterp {n : ColorMode} (hinterp : n.interp = false) : embPalette n = fullPalette n := by
  rw [embPalette, fullPalette, ColorMode.embeddedCount_of_noInterp hinterp, romEmb_of_noInterp hinterp]

/-- A colour as a number: its channels are the digits to base 256 (10_state.md R23). -/
theorem packRgb_toNat (c : Rgb) : (packRgb c).toNat = c.r.toNat * 65536 + c.g.toNat * 256 + c.b.toNat := by
  rw [packRgb, append_toNat, append_toNat]
  omega

/-! ## The commands -/

theorem loadPalette_eq (p : List Rgb) (s : State) :
    loadPalette p s = .next ((s.setW p).putRsp (rspWord 0 0 p.length)) := rfl

/-- PAL.COLOR in mode `n` (41_palette.md R111). -/
def lookUpColor (i : Nat) (s : State) (n : ColorMode) : Result :=
  if n.colorCount ≤ i then raise .indexOutOfRange s
  else respond 0 (packRgb (romFull n (BitVec.ofNat 8 i))).toNat s

theorem exec_palColor (i : Nat) (s : State) : exec (.palColor i) s = withMode s (lookUpColor i s) := rfl

theorem lookUpColor_eq (i : Nat) (s : State) (n : ColorMode) :
    lookUpColor i s n = .next (s.putRsp
      (if i < n.colorCount then rspWord 0 0 (packRgb (romFull n (BitVec.ofNat 8 i))).toNat else rspWord 6 0 0)) := by
  by_cases hi : i < n.colorCount
  · rw [lookUpColor, if_neg (not_le.mpr hi), if_pos hi]
    rfl
  · rw [lookUpColor, if_pos (not_lt.mp hi), if_neg hi]
    rfl

theorem exec_palLdRom (s : State) : exec .palLdRom s = withMode s (fun n => loadPalette (fullPalette n) s) := rfl

theorem exec_palLdEmb (s : State) : exec .palLdEmb s = withMode s (fun n => loadPalette (embPalette n) s) := rfl

theorem exec_palGet_valid {s : State} {i : Nat} (hi : i < s.w.length) :
    exec (.palGet i) s = .next (s.putRsp (rspWord 0 0 (packRgb s.w[i]).toNat)) := by
  change execPalGet i s = _
  rw [execPalGet, List.getElem?_eq_getElem hi]
  rfl

theorem exec_palGet_outOfRange {s : State} {i : Nat} (hi : s.w.length ≤ i) :
    exec (.palGet i) s = .next (s.putRsp (rspWord 6 0 0)) := by
  change execPalGet i s = _
  rw [execPalGet, List.getElem?_eq_none hi]
  rfl

/-- PAL.EXPAND in mode `n` (41_palette.md R116). -/
def expandPalette (s : State) (n : ColorMode) : Result :=
  if n.interp = false then respond 0 s.w.length s
  else if s.w.length ≠ 64 then raise .invalidPaletteLength s
  else if s.w ≠ embPalette n then raise .nonStandardPalette s
  else loadPalette (fullPalette n) s

theorem exec_palExpand (s : State) : exec .palExpand s = withMode s (expandPalette s) := rfl

section
variable {s : State} {n : ColorMode}

theorem exec_palExpand_of_selectedIs (hmode : SelectedIs s n) : exec .palExpand s = expandPalette s n :=
  (exec_palExpand s).trans (withMode_of_selectedIs _ hmode)

theorem expandPalette_of_noInterp (hinterp : n.interp = false) :
    expandPalette s n = .next (s.putRsp (rspWord 0 0 s.w.length)) := if_pos hinterp

theorem expandPalette_of_wrongLength (hinterp : n.interp = true) (hlen : s.w.length ≠ 64) :
    expandPalette s n = .next (s.putRsp (rspWord 2 0 0)) := by
  rw [expandPalette, if_neg (by simp [hinterp]), if_pos hlen]
  rfl

theorem expandPalette_of_nonStandard (hinterp : n.interp = true) (hlen : s.w.length = 64) (hw : s.w ≠ embPalette n) :
    expandPalette s n = .next (s.putRsp (rspWord 9 0 0)) := by
  rw [expandPalette, if_neg (by simp [hinterp]), if_neg (not_not.mpr hlen), if_pos hw]
  rfl

/-- The length check passes on the standard embedded palette, so its content alone decides. -/
theorem expandPalette_of_standard (hinterp : n.interp = true) (hw : s.w = embPalette n) :
    expandPalette s n = loadPalette (fullPalette n) s := by
  have hlen : s.w.length = 64 := by
    rw [hw, embPalette_length, ColorMode.embeddedCount_of_interp hinterp]
  rw [expandPalette, if_neg (by simp [hinterp]), if_neg (not_not.mpr hlen), if_neg (not_not.mpr hw)]

end

/-! ## The obligations -/

/-- Settles O26: the ROM is read at the selected mode only. -/
theorem palColorReadsRom : Obligations.PalColorReadsRom := by
  refine ⟨?decodes, ?noMode, ?selected⟩
  case decodes => exact fun w hfits => decode_of_fits (row := rows[5]) (List.getElem_mem (by decide)) hfits
  case noMode => exact fun s i hmode => (exec_palColor i s).trans (withMode_of_noMode _ hmode)
  case selected =>
    intro s n i hmode
    rw [exec_palColor, withMode_of_selectedIs _ hmode, lookUpColor_eq]

/-- Settles O27: the palette loaded is the table `fullPalette`, whose length is the colour count. -/
theorem palLdRomLoadsFull : Obligations.PalLdRomLoadsFull := by
  refine ⟨rfl, ?noMode, ?selected⟩
  case noMode => exact fun s hmode => (exec_palLdRom s).trans (withMode_of_noMode _ hmode)
  case selected =>
    intro s n hmode
    refine ⟨fullPalette n, holdsFullPalette_iff.mpr rfl, ?_⟩
    rw [exec_palLdRom, withMode_of_selectedIs _ hmode, loadPalette_eq, fullPalette_length]
    rfl

/-- Settles O28: the palette loaded is the table `embPalette`, which is `fullPalette` in the modes without
interpolation. -/
theorem palLdEmbLoadsEmbedded : Obligations.PalLdEmbLoadsEmbedded := by
  refine ⟨rfl, ?noMode, ?selected, ?sameAsFull⟩
  case noMode => exact fun s hmode => (exec_palLdEmb s).trans (withMode_of_noMode _ hmode)
  case selected =>
    intro s n hmode
    refine ⟨embPalette n, holdsEmbPalette_iff.mpr rfl, ?_⟩
    rw [exec_palLdEmb, withMode_of_selectedIs _ hmode, loadPalette_eq, embPalette_length]
    rfl
  case sameAsFull =>
    intro s n hmode hnc
    rw [exec_palLdEmb, exec_palLdRom, withMode_of_selectedIs _ hmode, withMode_of_selectedIs _ hmode,
      embPalette_of_noInterp (n.interp_eq_false_iff.mpr hnc)]

/-- Settles O29: PAL.LDBOOT reads no state, so it is one palette load. -/
theorem palLdBootLoadsThree : Obligations.PalLdBootLoadsThree :=
  ⟨rfl, fun s => loadPalette_eq bootPalette s⟩

/-- Settles O30: an entry of W is found below PALCNT only, and is answered as a base-256 number. -/
theorem palGetReadsW : Obligations.PalGetReadsW := by
  refine ⟨?decodes, ?valid, ?outOfRange⟩
  case decodes => exact fun w hfits => decode_of_fits (row := rows[9]) (List.getElem_mem (by decide)) hfits
  case valid =>
    intro s i hi
    rw [exec_palGet_valid hi, packRgb_toNat]
  case outOfRange => exact fun _ _ hi => exec_palGet_outOfRange hi

/-- Settles O31: one lemma about `expandPalette` for each case; W holds the embedded palette when it is that
table. -/
theorem palExpandReconstructs : Obligations.PalExpandReconstructs := by
  refine ⟨rfl, ?noMode, ?noInterp, ?wrongLength, ?nonStandard, ?standard⟩
  case noMode => exact fun s hmode => (exec_palExpand s).trans (withMode_of_noMode _ hmode)
  case noInterp =>
    intro s n hmode hinterp
    exact (exec_palExpand_of_selectedIs hmode).trans (expandPalette_of_noInterp hinterp)
  case wrongLength =>
    intro s n hmode hinterp hlen
    exact (exec_palExpand_of_selectedIs hmode).trans (expandPalette_of_wrongLength hinterp hlen)
  case nonStandard =>
    intro s n hmode hinterp hlen hother
    have hw : s.w ≠ embPalette n := mt holdsEmbPalette_iff.mpr hother
    exact (exec_palExpand_of_selectedIs hmode).trans (expandPalette_of_nonStandard hinterp hlen hw)
  case standard =>
    intro s n hmode hinterp hholds
    refine ⟨fullPalette n, holdsFullPalette_iff.mpr rfl, ?_⟩
    rw [exec_palExpand_of_selectedIs hmode, expandPalette_of_standard hinterp (holdsEmbPalette_iff.mp hholds),
      loadPalette_eq, fullPalette_length]
    rfl

end Sys2Proof.Machine
end

section
/-! PROOFS. The nearest-colour classifier (42_classifier.md R130): the distance is a sum of three squares, and the search
keeps, of the entries it has passed, the first of those at the least distance. -/

namespace Sys2Proof.Machine

/-! ## The operands (30_encoding.md R74) -/

/-- Field a is the low half of a word, so its bits are the word's bits of the same numbers. -/
theorem extractLsb_fieldA (w : Word) {hi lo : Nat} (hlo : lo ≤ hi) (hhi : hi < 32) :
    (fieldA w).extractLsb hi lo = w.extractLsb hi lo := by
  apply BitVec.eq_of_getLsbD_eq
  intro k hk
  have hlow : lo + k ≤ 31 - 0 := by omega
  have hfield : k ≤ hi - lo := by omega
  simp only [fieldA, BitVec.getLsbD_extract, hlow, hfield, decide_true, Bool.true_and, Nat.zero_add]

/-! ## The distance -/

theorem channelDist_eq_sq (p q : Byte) : (channelDist p q : Int) = ((p.toNat : Int) - q.toNat) ^ 2 := by
  rw [channelDist, Int.toNat_of_nonneg (mul_self_nonneg _), sq]

theorem channelDist_le (p q : Byte) : channelDist p q ≤ 65025 := by
  have hp := p.isLt
  have hq := q.isLt
  have hsq : ((p.toNat : Int) - q.toNat) ^ 2 ≤ 255 ^ 2 := sq_le_sq' (by omega) (by omega)
  rw [← channelDist_eq_sq] at hsq
  omega

theorem colorDist_eq_sum_sq (p q : Rgb) :
    (colorDist p q : Int) = ((p.r.toNat : Int) - q.r.toNat) ^ 2 + ((p.g.toNat : Int) - q.g.toNat) ^ 2
      + ((p.b.toNat : Int) - q.b.toNat) ^ 2 := by
  rw [colorDist, Nat.cast_add, Nat.cast_add, channelDist_eq_sq, channelDist_eq_sq, channelDist_eq_sq]

theorem colorDist_le (p q : Rgb) : colorDist p q ≤ 195075 := by
  have hr := channelDist_le p.r q.r
  have hg := channelDist_le p.g q.g
  have hb := channelDist_le p.b q.b
  rw [colorDist]
  omega

/-! ## The search -/

/-- `best` is the index of the first entry of `w` at the least distance to `c`, with that distance. -/
structure IsNearest (c : Rgb) (w : List Rgb) (best : Nat × Nat) : Prop where
  lt_length : best.1 < w.length
  dist_eq : colorDist c w[best.1] = best.2
  le_all : ∀ q ∈ w, best.2 ≤ colorDist c q
  lt_before : ∀ q ∈ w.take best.1, best.2 < colorDist c q

theorem isNearest_singleton (c q : Rgb) : IsNearest c [q] (0, colorDist c q) where
  lt_length := Nat.one_pos
  dist_eq := rfl
  le_all := List.forall_mem_singleton.mpr le_rfl
  lt_before _ hmem := absurd hmem List.not_mem_nil

/-- One comparison of the search: the entry after those passed displaces the best when it is strictly nearer. -/
theorem isNearest_append_one {c : Rgb} {w : List Rgb} {best : Nat × Nat} (q : Rgb) (h : IsNearest c w best) :
    IsNearest c (w ++ [q]) (if colorDist c q < best.2 then (w.length, colorDist c q) else best) := by
  obtain ⟨hlen, hdist, hall, hbefore⟩ := h
  by_cases hq : colorDist c q < best.2
  · rw [if_pos hq]
    have hnearer : ∀ p ∈ w, colorDist c q < colorDist c p := fun p hp => hq.trans_le (hall p hp)
    exact ⟨by simp, by simp, List.forall_mem_append.mpr ⟨fun p hp => (hnearer p hp).le, by simp⟩,
      by simpa using hnearer⟩
  · rw [if_neg hq]
    refine ⟨?lt, by rwa [List.getElem_append_left hlen], List.forall_mem_append.mpr ⟨hall, ?last⟩, ?before⟩
    case lt => exact hlen.trans_le (List.length_append ▸ Nat.le_add_right _ _)
    case last => exact List.forall_mem_singleton.mpr (not_lt.mp hq)
    case before => rwa [List.take_append_of_le_length hlen.le]

/-- The search extends what holds of the entries passed to all entries. -/
theorem isNearest_nearest {c : Rgb} (rest : List Rgb) {w : List Rgb} {best : Nat × Nat} (h : IsNearest c w best) :
    IsNearest c (w ++ rest) (nearest c rest w.length best) := by
  induction rest generalizing w best with
  | nil => rwa [List.append_nil, nearest]
  | cons q rest ih =>
    have hstep := ih (isNearest_append_one q h)
    rwa [List.append_assoc, List.singleton_append, List.length_append, List.length_singleton] at hstep

/-- CLS.IDX over a palette with entries answers a nearest entry's index and distance. -/
theorem classifierRsp_of_ne_nil (c : Rgb) {w : List Rgb} (hw : w ≠ []) :
    ∃ best, IsNearest c w best ∧ classifierRsp c w = rspWord 0 best.2 best.1 := by
  obtain ⟨q, rest, rfl⟩ := List.exists_cons_of_ne_nil hw
  exact ⟨_, isNearest_nearest rest (isNearest_singleton c q), rfl⟩

/-- Settles O41: the search of R130 ends in the first entry at the least distance. -/
theorem classifierFindsNearest : Obligations.ClassifierFindsNearest := by
  refine ⟨?decodes, ?distance, ?empty, ?nonempty⟩
  case decodes =>
    intro w hfits
    have hdec := decode_of_fits (row := rows[18]) (List.getElem_mem (by decide)) hfits
    rwa [← extractLsb_fieldA w (by decide) (by decide), ← extractLsb_fieldA w (by decide) (by decide),
      ← extractLsb_fieldA w (by decide) (by decide)]
  case distance => exact fun p q => ⟨colorDist_eq_sum_sq p q, colorDist_le p q⟩
  case empty =>
    intro s r g b hw
    rw [exec_clsIdx, hw]
    rfl
  case nonempty =>
    intro s r g b hw
    obtain ⟨best, ⟨hlen, hdist, hall, hbefore⟩, hrsp⟩ := classifierRsp_of_ne_nil ⟨r, g, b⟩ hw
    refine ⟨best.1, hlen, ?least, ?first, ?answer⟩
    case least => exact fun j hj => hdist ▸ hall _ (List.getElem_mem hj)
    case first =>
      intro j hj
      rw [hdist]
      exact hbefore _ (List.mem_take_iff_getElem.mpr ⟨j, lt_min hj (hj.trans hlen), rfl⟩)
    case answer => rw [exec_clsIdx, hrsp, hdist]

end Sys2Proof.Machine
end

section
/-! PROOFS. The Nc metadata codec (43_nc_codec.md R141, R142): the bits of an ncValue are quotients of it, and three
bits are joined by shifts because none overlaps the next. -/

namespace Sys2Proof.Machine

/-! ## NC.ENC -/

theorem getLsbD_toNat {n : Nat} (v : BitVec n) (k : Nat) : (v.getLsbD k).toNat = v.toNat / 2 ^ k % 2 := by
  rw [← BitVec.testBit_toNat, Nat.toNat_testBit]

/-- The top bit of a 3-bit number is the whole quotient by 4. -/
theorem ncIndices_eq_digits (nc : BitVec 3) :
    ncIndices nc = 16 * (nc.toNat / 4) + 4 * (nc.toNat / 2 % 2) + nc.toNat % 2 := by
  have htop : nc.toNat / 2 ^ 2 % 2 = nc.toNat / 4 := Nat.mod_eq_of_lt (Nat.div_lt_of_lt_mul nc.isLt)
  rw [ncIndices, getLsbD_toNat, getLsbD_toNat, getLsbD_toNat, htop, pow_one, pow_zero, Nat.div_one]

/-- Settles O43: the three operand bits, read as quotients of ncValue. -/
theorem ncEncSplitsBits : Obligations.NcEncSplitsBits := by
  refine ⟨?decodes, ?answers⟩
  case decodes =>
    intro w hfits
    have hdec := decode_of_fits (row := rows[19]) (List.getElem_mem (by decide)) hfits
    rwa [← extractLsb_fieldA w (by decide) (by decide)]
  case answers =>
    intro s nc
    rw [exec_ncEnc, ncIndices_eq_digits]

/-! ## NC.DEC -/

/-- Shifting past a lower bit leaves room for it, so OR adds. -/
theorem shiftLeft_or_eq_digits {i0 i1 i2 : Nat} (h1 : i1 ≤ 1) (h2 : i2 ≤ 1) :
    i0 <<< 2 ||| i1 <<< 1 ||| i2 = 4 * i0 + 2 * i1 + i2 := by
  have hlow : i1 <<< 1 ||| i2 = 2 * i1 + i2 := by
    rw [← Nat.shiftLeft_add_eq_or_of_lt (by omega), Nat.shiftLeft_eq]
    omega
  rw [Nat.or_assoc, hlow, ← Nat.shiftLeft_add_eq_or_of_lt (by omega), Nat.shiftLeft_eq]
  omega

section
variable {i0 i1 i2 : Nat}

theorem ncDecRsp_of_wrongCount {cnt : Nat} (hcnt : cnt ≠ 3) : ncDecRsp cnt i0 i1 i2 = rspWord 3 0 0 := if_pos hcnt

theorem ncDecRsp_of_wrongIndex (hidx : 1 < i0 ∨ 1 < i1 ∨ 1 < i2) : ncDecRsp 3 i0 i1 i2 = rspWord 7 0 0 := by
  rw [ncDecRsp, if_neg (not_not.mpr rfl), bootstrapBits, if_pos hidx]
  rfl

theorem ncDecRsp_of_bits (hidx : ¬ (1 < i0 ∨ 1 < i1 ∨ 1 < i2)) :
    ncDecRsp 3 i0 i1 i2 = rspWord 0 0 (i0 <<< 2 ||| i1 <<< 1 ||| i2) := by
  rw [ncDecRsp, if_neg (not_not.mpr rfl), bootstrapBits, if_neg hidx, shiftLeft_or_eq_digits (by omega) (by omega)]
  rfl

end

/-- Settles O44: one lemma about `ncDecRsp` for each case, the count before the indices. -/
theorem ncDecJoinsBits : Obligations.NcDecJoinsBits := by
  refine ⟨?decodes, ?answers⟩
  case decodes =>
    intro w hfits
    have hdec := decode_of_fits (row := rows[20]) (List.getElem_mem (by decide)) hfits
    rwa [← extractLsb_fieldA w (hi := 5) (lo := 4) (by decide) (by decide),
      ← extractLsb_fieldA w (hi := 3) (lo := 2) (by decide) (by decide),
      ← extractLsb_fieldA w (hi := 1) (lo := 0) (by decide) (by decide)]
  case answers =>
    intro s cnt i0 i1 i2
    rw [exec_ncDec]
    split_ifs with hcnt hidx
    · rw [ncDecRsp_of_wrongCount hcnt]
    · rw [not_not.mp hcnt, ncDecRsp_of_wrongIndex hidx]
    · rw [not_not.mp hcnt, ncDecRsp_of_bits hidx]

end Sys2Proof.Machine
end

section
/-! PROOFS. The palette embedding serializer (44_embedding.md R151 to R157): the bytes of a palette are three per colour,
and a byte list of whole colours is the serialisation of the palette that it decodes to. -/

namespace Sys2Proof.Machine

open Sys2Proof.Safety

/-! ## Serialisation (R150; 20_memory.md R53) -/

theorem serialises_nil : Serialises [] [] := ⟨rfl, fun _ hj => absurd hj (Nat.not_lt_zero _)⟩

/-- A colour in front of a palette is its three bytes in front of the bytes. -/
theorem serialises_cons {y : List Byte} {p : List Rgb} (c : Rgb) (h : Serialises y p) :
    Serialises (c.r :: c.g :: c.b :: y) (c :: p) := by
  obtain ⟨hlen, hbytes⟩ := h
  refine ⟨by simp only [List.length_cons, hlen]; omega, fun j hj => ?_⟩
  cases j with
  | zero => exact ⟨rfl, rfl, rfl⟩
  | succ j => exact hbytes j (Nat.lt_of_succ_lt_succ hj)

theorem serialises_ser : ∀ p : List Rgb, Serialises (ser p) p
  | [] => serialises_nil
  | c :: rest => serialises_cons c (serialises_ser rest)

theorem ser_length (p : List Rgb) : (ser p).length = 3 * p.length := (serialises_ser p).1

/-- A list of whole colours loses no byte in decoding. -/
theorem serialises_deser : ∀ {y : List Byte}, y.length % 3 = 0 → Serialises y (deser y)
  | [], _ => serialises_nil
  | [_], hlen | [_, _], hlen => nomatch hlen
  | r :: g :: b :: rest, hlen =>
    have hrest : rest.length % 3 = 0 := (Nat.add_mod_right rest.length 3).symm.trans hlen
    serialises_cons ⟨r, g, b⟩ (serialises_deser hrest)

theorem deser_length {y : List Byte} (hlen : y.length % 3 = 0) : (deser y).length = y.length / 3 := by
  have hcount : y.length = 3 * (deser y).length := (serialises_deser hlen).1
  omega

/-! ## The commands -/

theorem storeEmb_eq (bytes : List Byte) (s : State) :
    storeEmb bytes s = .next ((s.setEmb bytes).putRsp (rspWord 0 0 bytes.length)) := rfl

theorem storeEmb_ser (p : List Rgb) (s : State) :
    storeEmb (ser p) s = .next ((s.setEmb (ser p)).putRsp (rspWord 0 0 (3 * p.length))) := by
  rw [storeEmb_eq, ser_length]

theorem exec_embPut (b : Byte) (s : State) : exec (.embPut b) s = appendEmb b s := rfl

section
variable {s : State}

theorem exec_embGet_valid {i : Nat} (hi : i < s.emb.length) :
    exec (.embGet i) s = .next (s.putRsp (rspWord 0 0 s.emb[i].toNat)) := by
  change execEmbGet i s = _
  rw [execEmbGet, List.getElem?_eq_getElem hi]
  rfl

theorem exec_embGet_outOfRange {i : Nat} (hi : s.emb.length ≤ i) :
    exec (.embGet i) s = .next (s.putRsp (rspWord 6 0 0)) := by
  change execEmbGet i s = _
  rw [execEmbGet, List.getElem?_eq_none hi]
  rfl

end

theorem exec_embEnc (s : State) : exec .embEnc s = withMode s (fun n => storeEmb (ser (embPalette n)) s) := rfl

theorem exec_embEncW (s : State) :
    exec .embEncW s = .next ((s.setEmb (ser s.w)).putRsp (rspWord 0 0 (3 * s.w.length))) := storeEmb_ser s.w s

/-- EMB.DECM in mode `n` is EMB.DEC behind a check of the length (R157). -/
def decodeChecked (s : State) (n : ColorMode) : Result :=
  if s.emb.length = 3 * n.embeddedCount then exec .embDec s else raise .invalidPaletteLength s

section
variable {s : State} {n : ColorMode}

theorem exec_embDec_of_partialColour (hlen : s.emb.length % 3 ≠ 0) :
    exec .embDec s = .next (s.putRsp (rspWord 2 0 0)) := if_pos hlen

theorem exec_embDec_of_wholeColours (hlen : s.emb.length % 3 = 0) :
    exec .embDec s = .next ((s.setW (deser s.emb)).putRsp (rspWord 0 0 (s.emb.length / 3))) := by
  calc exec .embDec s = loadPalette (deser s.emb) s := if_neg (not_not.mpr hlen)
    _ = _ := by rw [loadPalette_eq, deser_length hlen]

/-- Both length checks of EMB.DECM answer the same error, and the mode's length passes that of EMB.DEC. -/
theorem exec_embDecM (s : State) : exec .embDecM s = withMode s (decodeChecked s) := by
  change execEmbDecM s = _
  unfold execEmbDecM withMode decodeChecked
  cases selectedMode s with
  | none => rfl
  | some n =>
    change (if s.emb.length % 3 ≠ 0 then _ else _) = if _ then execEmbDec s else _
    by_cases hlen : s.emb.length = 3 * n.embeddedCount
    · rw [if_pos hlen, execEmbDec, if_neg (not_not.mpr hlen)]
    · rw [if_neg hlen, if_pos hlen, ite_self]

theorem decodeChecked_of_wrongLength (hlen : s.emb.length ≠ 3 * n.embeddedCount) :
    decodeChecked s n = .next (s.putRsp (rspWord 2 0 0)) := if_neg hlen

theorem decodeChecked_of_length (hlen : s.emb.length = 3 * n.embeddedCount) :
    decodeChecked s n = .next ((s.setW (deser s.emb)).putRsp (rspWord 0 0 n.embeddedCount)) := by
  have hwhole : s.emb.length % 3 = 0 := by omega
  have hcount : s.emb.length / 3 = n.embeddedCount := by omega
  rw [decodeChecked, if_pos hlen, exec_embDec_of_wholeColours hwhole, hcount]

end

/-! ## The obligations -/

/-- Settles O33: EMB.CLR stores the empty byte list, whatever EMB holds. -/
theorem embClrEmpties : Obligations.EmbClrEmpties := ⟨rfl, fun s => storeEmb_eq [] s⟩

/-- Settles O34: the two cases of the shared append, below and at the capacity. -/
theorem embPutAppends : Obligations.EmbPutAppends := by
  refine ⟨?decodes, ?appends⟩
  case decodes =>
    intro w hfits
    have hdec := decode_of_fits (row := rows[12]) (List.getElem_mem (by decide)) hfits
    rwa [← extractLsb_fieldA w (by decide) (by decide)]
  case appends =>
    intro s b
    rw [exec_embPut]
    obtain ⟨(hroom : s.emb.length < 768), happend⟩ | ⟨(hfull : 768 ≤ s.emb.length), happend⟩ := appendEmb_cases b s
    · rw [happend, if_pos hroom]
      rfl
    · rw [happend, if_neg (not_lt.mpr hfull)]
      rfl

/-- Settles O35: a byte of EMB is found below EMBLEN only. -/
theorem embGetReadsEmb : Obligations.EmbGetReadsEmb := by
  refine ⟨?decodes, ?valid, ?outOfRange⟩
  case decodes => exact fun w hfits => decode_of_fits (row := rows[13]) (List.getElem_mem (by decide)) hfits
  case valid => exact fun _ _ hi => exec_embGet_valid hi
  case outOfRange => exact fun _ _ hi => exec_embGet_outOfRange hi

/-- Settles O36: the bytes stored are `ser` of the table `embPalette`. -/
theorem embEncSerialisesEmbedded : Obligations.EmbEncSerialisesEmbedded := by
  refine ⟨rfl, ?noMode, ?selected⟩
  case noMode => exact fun s hmode => (exec_embEnc s).trans (withMode_of_noMode _ hmode)
  case selected =>
    intro s n hmode
    refine ⟨embPalette n, ser (embPalette n), holdsEmbPalette_iff.mpr rfl, serialises_ser _, ?_⟩
    rw [exec_embEnc, withMode_of_selectedIs _ hmode, storeEmb_ser, embPalette_length]
    rfl

/-- Settles O37: the bytes stored are `ser` of W. -/
theorem embEncWSerialisesW : Obligations.EmbEncWSerialisesW :=
  ⟨rfl, fun s => ⟨ser s.w, serialises_ser s.w, exec_embEncW s⟩⟩

/-- Settles O38: the palette loaded is `deser` of EMB, which EMB serialises when it holds whole colours. -/
theorem embDecDecodes : Obligations.EmbDecDecodes := by
  refine ⟨rfl, ?partialColour, ?wholeColours⟩
  case partialColour => exact fun _ hlen => exec_embDec_of_partialColour hlen
  case wholeColours =>
    exact fun s hlen => ⟨deser s.emb, serialises_deser hlen, exec_embDec_of_wholeColours hlen⟩

/-- Settles O39: EMB.DECM is EMB.DEC once the mode and the length are checked. -/
theorem embDecMChecksMode : Obligations.EmbDecMChecksMode := by
  refine ⟨rfl, ?noMode, ?wrongLength, ?length⟩
  case noMode => exact fun s hmode => (exec_embDecM s).trans (withMode_of_noMode _ hmode)
  case wrongLength =>
    intro s n hmode hlen
    rw [exec_embDecM, withMode_of_selectedIs _ hmode, decodeChecked_of_wrongLength hlen]
  case length =>
    intro s n hmode hlen
    have hwhole : s.emb.length % 3 = 0 := by omega
    refine ⟨deser s.emb, serialises_deser hwhole, ?_⟩
    rw [exec_embDecM, withMode_of_selectedIs _ hmode, decodeChecked_of_length hlen]
    rfl

end Sys2Proof.Machine
end

section
/-! PROOFS. The masking commands (45_masking.md R170 to R174): the sums that the eight functions reduce, the check of
the modulus that the three commands share, and the subtraction that stays within 0 to m-1. -/

namespace Sys2Proof.Machine

/-! ## The operands (30_encoding.md R74) -/

/-- The reference is the low end of field f, which begins at bit 48. -/
theorem refOperand_eq (w : Word) : refOperand w = w.extractLsb 50 48 := by
  apply BitVec.eq_of_getLsbD_eq
  intro k hk
  have hfield : k ≤ 2 - 0 := by omega
  have hbyte : k ≤ 55 - 48 := by omega
  simp only [refOperand, fieldF, BitVec.getLsbD_extract, hfield, hbyte, decide_true, Bool.true_and, Nat.zero_add]

theorem modulusOperand_eq (w : Word) : modulusOperand w = (w.extractLsb 47 32).toInt := rfl

theorem xOperand_eq (w : Word) : xOperand w = (w.extractLsb 31 20).toNat :=
  congrArg BitVec.toNat (extractLsb_fieldA w (by decide) (by decide))

theorem yOperand_eq (w : Word) : yOperand w = (w.extractLsb 19 8).toNat :=
  congrArg BitVec.toNat (extractLsb_fieldA w (by decide) (by decide))

theorem byteOperand_eq (w : Word) : byteOperand w = w.extractLsb 7 0 := extractLsb_fieldA w (by decide) (by decide)

/-! ## The mask functions -/

section
variable (x y : Nat)

theorem maskSum_ref0 : maskSum 0 x y = x + y := rfl
theorem maskSum_ref1 : maskSum 1 x y = x := rfl
theorem maskSum_ref2 : maskSum 2 x y = y := rfl
theorem maskSum_ref3 : maskSum 3 x y = x / 2 + y / 3 := rfl
theorem maskSum_ref4 : maskSum 4 x y = x / 3 + y / 2 := rfl
theorem maskSum_ref5 : maskSum 5 x y = (x + y) / 2 + (x + y) / 3 := rfl
theorem maskSum_ref6 : maskSum 6 x y = x * x * y % 7 + (2 * x * x + 2 * y) % 19 := rfl
theorem maskSum_ref7 : maskSum 7 x y = x * y * y % 5 + (2 * x + y * y) % 13 := rfl

/-- The sums of two remainders are bounded by their divisors, whatever the coordinates are. -/
theorem maskSum_ref6_le : maskSum 6 x y ≤ 24 := by
  have h7 : x * x * y % 7 < 7 := Nat.mod_lt _ (by decide)
  have h19 : (2 * x * x + 2 * y) % 19 < 19 := Nat.mod_lt _ (by decide)
  rw [maskSum_ref6]
  omega

theorem maskSum_ref7_le : maskSum 7 x y ≤ 16 := by
  have h5 : x * y * y % 5 < 5 := Nat.mod_lt _ (by decide)
  have h13 : (2 * x + y * y) % 13 < 13 := Nat.mod_lt _ (by decide)
  rw [maskSum_ref7]
  omega

theorem maskAt_lt (ref : BitVec 3) {m : Nat} (hm : 1 ≤ m) : maskAt x y ref m < m := Nat.mod_lt _ hm

end

/-! ## The check of the modulus, and the subtraction modulo m -/

/-- Every masking command answers code 5 for a modulus of 0 or less, and otherwise its results for the modulus. -/
theorem checkedRsp_modulus (aux val : Nat → Nat) (m : Int) :
    checkedRsp .invalidModulus aux val (modulus m)
      = if m ≤ 0 then rspWord 5 0 0 else rspWord 0 (aux m.toNat) (val m.toNat) := by
  rw [modulus]
  split_ifs <;> rfl

theorem exec_maskSub_of_nonpos (s : State) (ref : BitVec 3) {m : Int} (x y idx : Nat) (hm : m ≤ 0) :
    exec (.maskSub ref m x y idx) s = .next (s.putRsp (rspWord 5 0 0)) := by
  rw [exec_maskSub, checkedRsp_modulus, if_pos hm]

theorem exec_maskSub_of_pos (s : State) (ref : BitVec 3) {m : Nat} (x y idx : Nat) (hm : 1 ≤ m) :
    exec (.maskSub ref m x y idx) s = .next (s.putRsp (rspWord 0 (maskAt x y ref m)
      (((idx : Int) - maskAt x y ref m) % (m : Int)).toNat)) := by
  have hpos : ¬ (m : Int) ≤ 0 := by omega
  rw [exec_maskSub, checkedRsp_modulus, if_neg hpos, Int.toNat_natCast]

section
variable {m : Nat}

/-- The remainder of R9 is the non-negative one. -/
theorem natCast_toNat_emod (hm : 1 ≤ m) (z : Int) : ((z % m).toNat : Int) = z % m :=
  Int.toNat_of_nonneg (Int.emod_nonneg z (by omega))

theorem toNat_emod_lt (hm : 1 ≤ m) (z : Int) : (z % m).toNat < m := by
  have hlt : z % m < m := Int.emod_lt_of_pos z (by omega)
  have hcast := natCast_toNat_emod hm z
  omega

/-- Adding `k` back undoes the subtraction modulo m, also where `idx - k` is negative. -/
theorem toNat_emod_sub_add_mod (hm : 1 ≤ m) (idx k : Nat) : ((((idx : Int) - k) % m).toNat + k) % m = idx % m := by
  zify
  rw [natCast_toNat_emod hm, Int.emod_add_emod, sub_add_cancel]

end

/-! ## The obligations -/

/-- Settles O46: an equation of `maskSum` for each reference; references 6 and 7 are bounded by their divisors, the others
by the coordinates. -/
theorem maskFunctions : Obligations.MaskFunctions := by
  refine ⟨?formulas, ?bounds, ?range⟩
  case formulas =>
    intro x y m
    simp only [maskAt, maskSum_ref0, maskSum_ref1, maskSum_ref2, maskSum_ref3, maskSum_ref4, maskSum_ref5, maskSum_ref6,
      maskSum_ref7, and_self]
  case bounds =>
    intro x hx y hy
    have hproduct : x * x * y ≤ 4095 * 4095 * 4095 := Nat.mul_le_mul (Nat.mul_le_mul hx hx) hy
    refine ⟨?_, hx, hy, ?_, ?_, ?_, maskSum_ref6_le x y, maskSum_ref7_le x y, hproduct⟩
    · rw [maskSum_ref0]; omega
    · rw [maskSum_ref3]; omega
    · rw [maskSum_ref4]; omega
    · rw [maskSum_ref5]; omega
  case range => exact fun x y _ ref hm => maskAt_lt x y ref hm

/-- Settles O47: the shared check of the modulus, in front of the mask value. -/
theorem maskValAnswers : Obligations.MaskValAnswers := by
  refine ⟨?decodes, ?answers⟩
  case decodes =>
    intro w hfits
    have hdec := decode_of_fits (row := rows[21]) (List.getElem_mem (by decide)) hfits
    rwa [← refOperand_eq, ← modulusOperand_eq, ← xOperand_eq, ← yOperand_eq]
  case answers =>
    intro s ref m x y
    rw [exec_maskVal, checkedRsp_modulus]

/-- Settles O48: the shared check of the modulus, in front of the mask value and the sum modulo m. -/
theorem maskAddAnswers : Obligations.MaskAddAnswers := by
  refine ⟨?decodes, ?answers⟩
  case decodes =>
    intro w hfits
    have hdec := decode_of_fits (row := rows[22]) (List.getElem_mem (by decide)) hfits
    rwa [← refOperand_eq, ← modulusOperand_eq, ← xOperand_eq, ← yOperand_eq, ← byteOperand_eq]
  case answers =>
    intro s ref m x y idx
    rw [exec_maskAdd, checkedRsp_modulus]

/-- Settles O49: the number answered is the non-negative remainder of `idx - k`, which is below m and gives back `idx`
modulo m when k is added. -/
theorem maskSubAnswers : Obligations.MaskSubAnswers := by
  refine ⟨?decodes, ?nonpositive, ?positive⟩
  case decodes =>
    intro w hfits
    have hdec := decode_of_fits (row := rows[23]) (List.getElem_mem (by decide)) hfits
    rwa [← refOperand_eq, ← modulusOperand_eq, ← xOperand_eq, ← yOperand_eq, ← byteOperand_eq]
  case nonpositive => exact fun s ref _ x y idx hm => exec_maskSub_of_nonpos s ref x y idx hm
  case positive =>
    exact fun s ref _ x y idx hm =>
      ⟨_, toNat_emod_lt hm _, toNat_emod_sub_add_mod hm idx _, exec_maskSub_of_pos s ref x y idx hm⟩

end Sys2Proof.Machine
end

section
/-! PROOFS. The packer's commands (46_bitstream.md R191 to R194), and UP.RST (R196). The closed form of PK.WRITE is an
invariant of its bits: the packer holds the bytes and the left-over bits of one number, and a bit appended to the packer
is a bit appended to the number. -/

namespace Sys2Proof.Machine

open Sys2Proof.Safety

/-! ## Bits of a byte -/

/-- Assigning one bit of a byte leaves the others. -/
theorem getLsbD_setBit (x : Byte) {j : Nat} (b : Bool) (hj : j < 8) (k : Nat) :
    (setBit x j b).getLsbD k = if k = j then b else x.getLsbD k := by
  have hmask : (1#8 <<< j).getLsbD k = decide (k = j) := by
    rw [BitVec.getLsbD_shiftLeft, BitVec.getLsbD_one]
    by_cases hk : k = j
    · simp [hk, hj]
    · simp [hk]; omega
  cases b with
  | true =>
    rw [setBit, if_pos rfl, BitVec.getLsbD_or, hmask]
    by_cases hk : k = j <;> simp [hk]
  | false =>
    rw [setBit, if_neg Bool.false_ne_true, BitVec.getLsbD_and, BitVec.getLsbD_not, hmask]
    by_cases hk : k = j
    · simp [hk]
    · simpa [hk] using BitVec.lt_of_getLsbD

/-- The byte that holds the low `r` bits of a number from its most significant bit on; its other bits are zero. -/
def partialByte (T r : Nat) : Byte := BitVec.ofNat 8 (T % 2 ^ r * 2 ^ (8 - r))

theorem getLsbD_partialByte (T : Nat) {r k : Nat} (hr : r ≤ 8) (hk : k < 8) :
    (partialByte T r).getLsbD k = (decide (8 - r ≤ k) && T.testBit (k - (8 - r))) := by
  rw [partialByte, BitVec.getLsbD_ofNat, Nat.testBit_mul_two_pow, Nat.testBit_mod_two_pow, decide_eq_true hk,
    Bool.true_and]
  by_cases hheld : 8 - r ≤ k
  · have hpos : k - (8 - r) < r := by omega
    rw [decide_eq_true hpos, Bool.true_and]
  · rw [decide_eq_false hheld, Bool.false_and, Bool.false_and]

theorem partialByte_zero (T : Nat) : partialByte T 0 = 0 := by
  simp [partialByte, Nat.mod_one]

/-- The bit that R192 assigns is the next one of the number. -/
theorem setBit_partialByte (b : Bool) (T : Nat) {r : Nat} (hr : r < 8) :
    setBit (partialByte T r) (7 - r) b = partialByte (Nat.bit b T) (r + 1) := by
  apply BitVec.eq_of_getLsbD_eq
  intro k hk
  rw [getLsbD_setBit _ _ (by omega), getLsbD_partialByte _ (by omega) hk, getLsbD_partialByte _ (by omega) hk]
  obtain hlow | hbit | hhigh := lt_trichotomy k (7 - r)
  · have hold : ¬ 8 - r ≤ k := by omega
    have hnew : ¬ 8 - (r + 1) ≤ k := by omega
    rw [if_neg hlow.ne, decide_eq_false hold, decide_eq_false hnew, Bool.false_and, Bool.false_and]
  · have hnew : k = 8 - (r + 1) := by omega
    rw [if_pos hbit, hnew, Nat.sub_self, Nat.testBit_bit_zero, decide_eq_true le_rfl, Bool.true_and]
  · have hold : 8 - r ≤ k := by omega
    have hnew : 8 - (r + 1) ≤ k := by omega
    have hpos : k - (8 - (r + 1)) = k - (8 - r) + 1 := by omega
    rw [if_neg hhigh.ne', hpos, Nat.testBit_bit_succ, decide_eq_true hold, decide_eq_true hnew]

/-! ## The packer as one number -/

/-- Byte `j` of a number of `t` bits, most significant byte first. -/
def byteOf (T t j : Nat) : Byte := BitVec.ofNat 8 (T / 2 ^ (t - 8 * (j + 1)))

/-- A bit appended to a number leaves its complete bytes. -/
theorem byteOf_bit (b : Bool) (T : Nat) {t j : Nat} (hj : j < t / 8) :
    byteOf (Nat.bit b T) (t + 1) j = byteOf T t j := by
  have hshift : t + 1 - 8 * (j + 1) = t - 8 * (j + 1) + 1 := by omega
  rw [byteOf, byteOf, hshift, Nat.pow_succ', ← Nat.div_div_eq_div_mul, Nat.bit_div_two]

theorem byteOf_last (T : Nat) {t j : Nat} (ht : t = 8 * (j + 1)) : byteOf T t j = partialByte T 8 := by
  apply BitVec.eq_of_toNat_eq
  simp [byteOf, partialByte, ht]

/-- The state with a packer that holds the `t` bits of `T` after the bytes `base` (R192). -/
def packed (s : State) (base : List Byte) (T t : Nat) : State :=
  s.setPacker (base ++ (List.range (t / 8)).map (byteOf T t)) (partialByte T (t % 8)) (BitVec.ofNat 3 (t % 8))

theorem packed_pknb (s : State) (base : List Byte) (T t : Nat) : (packed s base T t).pknb.toNat = t % 8 :=
  (BitVec.toNat_ofNat (t % 8) 3).trans (Nat.mod_mod t 8)

theorem packed_pkbuf_length (s : State) (base : List Byte) (T t : Nat) :
    (packed s base T t).pkbuf.length = base.length + t / 8 := by
  simp [packed]

/-- With its unused bits zero, the partial byte is the number of the pending bits. -/
theorem packed_self {s : State} (haligned : PackerAligned s) :
    packed s s.pkbuf (s.pkacc.toNat / 2 ^ (8 - s.pknb.toNat)) s.pknb.toNat = s := by
  have hp : s.pknb.toNat < 8 := s.pknb.isLt
  have hacc : partialByte (s.pkacc.toNat / 2 ^ (8 - s.pknb.toNat)) s.pknb.toNat = s.pkacc := by
    have hlt : s.pkacc.toNat / 2 ^ (8 - s.pknb.toNat) < 2 ^ s.pknb.toNat := by
      rw [Nat.div_lt_iff_lt_mul (Nat.two_pow_pos _), ← Nat.pow_add, Nat.add_sub_cancel' hp.le]
      exact s.pkacc.isLt
    rw [partialByte, Nat.mod_eq_of_lt hlt, Nat.div_mul_cancel (Nat.dvd_of_mod_eq_zero haligned), BitVec.ofNat_toNat,
      BitVec.setWidth_eq]
  rw [packed, Nat.div_eq_of_lt hp, Nat.mod_eq_of_lt hp, hacc, BitVec.ofNat_toNat, BitVec.setWidth_eq, List.range_zero,
    List.map_nil, List.append_nil]
  rfl

/-- One bit more in the packer is one bit more in the number. -/
theorem putBit_packed (b : Bool) (s : State) (base : List Byte) (T t : Nat) :
    putBit b (packed s base T t) = packed s base (Nat.bit b T) (t + 1) := by
  have hacc : setBit (packed s base T t).pkacc (7 - t % 8) b = partialByte (Nat.bit b T) (t % 8 + 1) :=
    setBit_partialByte b T (Nat.mod_lt t (by decide))
  have hbytes : (List.range (t / 8)).map (byteOf (Nat.bit b T) (t + 1)) = (List.range (t / 8)).map (byteOf T t) :=
    List.map_congr_left fun j hj => byteOf_bit b T (List.mem_range.mp hj)
  rw [putBit, packed_pknb, hacc]
  by_cases hfills : t % 8 + 1 = 8
  · have hdiv : (t + 1) / 8 = t / 8 + 1 := by omega
    have hmod : (t + 1) % 8 = 0 := by omega
    have hlast : byteOf (Nat.bit b T) (t + 1) (t / 8) = partialByte (Nat.bit b T) 8 := byteOf_last _ (by omega)
    rw [if_pos hfills, hfills, packed, packed, hdiv, hmod, List.range_succ, List.map_append, hbytes, List.map_singleton,
      hlast, partialByte_zero, ← List.append_assoc]
    rfl
  · have hdiv : (t + 1) / 8 = t / 8 := by omega
    have hmod : (t + 1) % 8 = t % 8 + 1 := by omega
    rw [if_neg hfills, packed, packed, hdiv, hmod, hbytes, BitVec.ofNat_add]
    rfl

/-- The bits of a value, appended to the packer, are its low digits appended to the number (R192). -/
theorem putBits_packed (v : BitVec 32) (s : State) (base : List Byte) (w T t : Nat) :
    putBits v w (packed s base T t) = packed s base (T * 2 ^ w + v.toNat % 2 ^ w) (t + w) := by
  induction w generalizing T t with
  | zero => simp [putBits, Nat.mod_one]
  | succ w ih =>
    have hdigit : Nat.bit (v.getLsbD w) T * 2 ^ w + v.toNat % 2 ^ w = T * 2 ^ (w + 1) + v.toNat % 2 ^ (w + 1) := by
      rw [Nat.bit_val, getLsbD_toNat, Nat.pow_succ, Nat.mod_mul]
      ring
    rw [putBits, putBit_packed, ih, hdigit, Nat.add_right_comm, Nat.add_assoc]

/-! ## The commands -/

theorem bitWidth_of_invalid {w : Int} (hw : w < 1 ∨ 32 < w) : bitWidth w = none := if_pos hw

theorem bitWidth_natCast {w : Nat} (hlow : 1 ≤ w) (hhigh : w ≤ 32) : bitWidth w = some w := by
  rw [bitWidth, if_neg (by omega), Int.toNat_natCast]

theorem exec_pkRst (s : State) : exec .pkRst s = .next ((s.setPacker [] 0 0).putRsp (rspWord 0 0 0)) := rfl

theorem exec_upRst (s : State) : exec .upRst s = .next (((s.setUpbuf []).setUpcur 0).putRsp (rspWord 0 0 0)) := rfl

section
variable {s : State}

theorem exec_pkWrite_invalidWidth (v : BitVec 32) {w : Int} (hw : w < 1 ∨ 32 < w) :
    exec (.pkWrite v w) s = .next (s.putRsp (rspWord 4 0 0)) := by
  change execPkWrite v w s = _
  rw [execPkWrite, bitWidth_of_invalid hw]
  rfl

theorem exec_pkWrite_full (v : BitVec 32) {w : Nat} (hlow : 1 ≤ w) (hhigh : w ≤ 32)
    (hfull : Config.pkCap < s.pkbuf.length + completedBytes w s) :
    exec (.pkWrite v w) s = .next (s.putRsp (rspWord 8 0 0)) := by
  change execPkWrite v w s = _
  rw [execPkWrite, bitWidth_natCast hlow hhigh]
  exact if_pos hfull

theorem exec_pkWrite_fits (v : BitVec 32) {w : Nat} (hlow : 1 ≤ w) (hhigh : w ≤ 32)
    (hroom : s.pkbuf.length + completedBytes w s ≤ Config.pkCap) :
    exec (.pkWrite v w) s = respondPacker (putBits v w s) := by
  change execPkWrite v w s = _
  rw [execPkWrite, bitWidth_natCast hlow hhigh]
  exact if_neg (not_lt.mpr hroom)

theorem exec_pkAlign_noPending (hnone : s.pknb = 0) :
    exec .pkAlign s = .next (s.putRsp (rspWord 0 0 s.pkbuf.length)) := if_pos hnone

theorem exec_pkAlign_full (hpending : s.pknb ≠ 0) (hfull : Config.pkCap ≤ s.pkbuf.length) :
    exec .pkAlign s = .next (s.putRsp (rspWord 8 0 0)) :=
  (if_neg hpending).trans (if_pos hfull)

theorem exec_pkAlign_flushes (hpending : s.pknb ≠ 0) (hroom : s.pkbuf.length < Config.pkCap) :
    exec .pkAlign s
      = .next ((s.setPacker (s.pkbuf ++ [s.pkacc]) 0 0).putRsp (rspWord 0 0 (s.pkbuf.length + 1))) := by
  calc exec .pkAlign s = respondPacker (s.setPacker (s.pkbuf ++ [s.pkacc]) 0 0) :=
        (if_neg hpending).trans (if_neg (not_le.mpr hroom))
    _ = _ := by rw [respondPacker, State.setPacker_pkbuf, List.length_append]; rfl

theorem exec_pkGet_valid {i : Nat} (hi : i < s.pkbuf.length) :
    exec (.pkGet i) s = .next (s.putRsp (rspWord 0 0 s.pkbuf[i].toNat)) := by
  change execPkGet i s = _
  rw [execPkGet, List.getElem?_eq_getElem hi]
  rfl

theorem exec_pkGet_outOfRange {i : Nat} (hi : s.pkbuf.length ≤ i) :
    exec (.pkGet i) s = .next (s.putRsp (rspWord 6 0 0)) := by
  change execPkGet i s = _
  rw [execPkGet, List.getElem?_eq_none hi]
  rfl

end

/-! ## The obligations -/

/-- Settles O51: neither reset reads the state. -/
theorem pkRstAndUpRstEmpty : Obligations.PkRstAndUpRstEmpty := ⟨rfl, exec_pkRst, rfl, exec_upRst⟩

/-- Settles O52: the packer is the number `T` of `t` bits, and a write appends its bits to that number. -/
theorem pkWriteClosedForm : Obligations.PkWriteClosedForm := by
  refine ⟨?decodes, ?invalidWidth, ?full, ?fits⟩
  case decodes => exact fun x hfits => decode_of_fits (row := rows[25]) (List.getElem_mem (by decide)) hfits
  case invalidWidth => exact fun _ v _ hw => exec_pkWrite_invalidWidth v hw
  case full => exact fun _ v _ hlow hhigh hfull => exec_pkWrite_full v hlow hhigh hfull
  case fits =>
    intro s v w T t haligned hlow hhigh hroom hT ht
    have hpacked : putBits v w s = packed s s.pkbuf T t := by
      rw [hT, ht, ← putBits_packed, packed_self haligned]
    rw [exec_pkWrite_fits v hlow hhigh hroom, hpacked, respondPacker, packed_pknb, packed_pkbuf_length]
    rfl

/-- Settles O53: one lemma about PK.ALIGN for each case. -/
theorem pkAlignFlushes : Obligations.PkAlignFlushes := by
  refine ⟨rfl, fun s => ?_⟩
  split_ifs with hnone hroom
  · exact exec_pkAlign_noPending hnone
  · exact exec_pkAlign_flushes hnone hroom
  · exact exec_pkAlign_full hnone (not_lt.mp hroom)

/-- Settles O54: a completed byte is found below PKLEN only; the partial byte stands outside PKBUF. -/
theorem pkGetReadsCompleted : Obligations.PkGetReadsCompleted := by
  refine ⟨?decodes, ?valid, ?outOfRange⟩
  case decodes => exact fun w hfits => decode_of_fits (row := rows[27]) (List.getElem_mem (by decide)) hfits
  case valid => exact fun _ _ hi => exec_pkGet_valid hi
  case outOfRange => exact fun _ _ hi => exec_pkGet_outOfRange hi

end Sys2Proof.Machine
end

section
/-! PROOFS. The packer's logical bit stream (46_bitstream.md R190): a bit put into the packer is appended to the stream, the
flush of PK.ALIGN only lengthens it, and the commands of the other blocks do not touch the packer. -/

namespace Sys2Proof.Machine

open Sys2Proof.Safety

/-! ## The stream -/

/-- The first `n` bits of a byte, most significant first (20_memory.md R52). -/
def leadingBits (x : Byte) (n : Nat) : List Bool := (List.range n).map (fun j => x.getLsbD (7 - j))

theorem leadingBits_length (x : Byte) (n : Nat) : (leadingBits x n).length = n := by
  simp [leadingBits]

theorem leadingBits_prefix (x : Byte) {m n : Nat} (hle : m ≤ n) : leadingBits x m <+: leadingBits x n := by
  obtain ⟨k, rfl⟩ := Nat.exists_eq_add_of_le hle
  rw [leadingBits, leadingBits, List.range_add, List.map_append]
  exact List.prefix_append _ _

/-- Assigning the bit after the first `p` of a byte appends it to them. -/
theorem leadingBits_setBit (x : Byte) (b : Bool) {p : Nat} (hp : p < 8) :
    leadingBits (setBit x (7 - p) b) (p + 1) = leadingBits x p ++ [b] := by
  have hnew : (setBit x (7 - p) b).getLsbD (7 - p) = b := by
    rw [getLsbD_setBit _ _ (by omega), if_pos rfl]
  have hold : leadingBits (setBit x (7 - p) b) p = leadingBits x p := by
    refine List.map_congr_left fun j hj => ?_
    have hlt : j < p := List.mem_range.mp hj
    rw [getLsbD_setBit _ _ (by omega), if_neg (by omega)]
  calc leadingBits (setBit x (7 - p) b) (p + 1)
      = leadingBits (setBit x (7 - p) b) p ++ [(setBit x (7 - p) b).getLsbD (7 - p)] := by
        rw [leadingBits, List.range_succ, List.map_append]; rfl
    _ = leadingBits x p ++ [b] := by rw [hold, hnew]

theorem packerStream_eq (s : State) :
    packerStream s = s.pkbuf.flatMap (leadingBits · 8) ++ leadingBits s.pkacc s.pknb.toNat := rfl

theorem packerStream_length (s : State) : (packerStream s).length = 8 * s.pkbuf.length + s.pknb.toNat := by
  rw [packerStream_eq, List.length_append, leadingBits_length, List.length_flatMap]
  simp [leadingBits_length, Nat.mul_comm]

/-- A completed byte stands in the stream with all its bits. -/
theorem packerStream_flushed (s : State) (x : Byte) :
    packerStream (s.setPacker (s.pkbuf ++ [x]) 0 0) = s.pkbuf.flatMap (leadingBits · 8) ++ leadingBits x 8 := by
  rw [packerStream_eq, State.setPacker_pkbuf, List.flatMap_append, List.flatMap_singleton]
  exact List.append_nil _

theorem packerStream_putBit (b : Bool) (s : State) : packerStream (putBit b s) = packerStream s ++ [b] := by
  have hp : s.pknb.toNat < 8 := s.pknb.isLt
  have hbits := leadingBits_setBit s.pkacc b hp
  rw [putBit, packerStream_eq s, List.append_assoc, ← hbits]
  by_cases hfills : s.pknb.toNat + 1 = 8
  · rw [if_pos hfills, hfills, packerStream_flushed]
  · have hnb : (s.pknb + 1).toNat = s.pknb.toNat + 1 := by
      rw [BitVec.toNat_add]
      exact Nat.mod_eq_of_lt (by change _ + 1 < 8; omega)
    rw [if_neg hfills, packerStream_eq, State.setPacker_pknb, hnb]
    rfl

theorem valueBits_succ (v : BitVec 32) (k : Nat) : valueBits v (k + 1) = v.getLsbD k :: valueBits v k := by
  rw [valueBits, valueBits, List.range_succ_eq_map, List.map_cons, List.map_map]
  congr 1
  refine List.map_congr_left fun j _ => ?_
  change v.getLsbD (k + 1 - 1 - (j + 1)) = _
  rw [Nat.add_sub_cancel, Nat.add_comm j 1, Nat.sub_sub]

theorem packerStream_putBits (v : BitVec 32) (k : Nat) (s : State) :
    packerStream (putBits v k s) = packerStream s ++ valueBits v k := by
  induction k generalizing s with
  | zero => exact (List.append_nil _).symm
  | succ k ih => rw [putBits, ih, packerStream_putBit, valueBits_succ, List.append_assoc, List.singleton_append]

/-! ## The commands that do not touch the packer -/

/-- PKBUF, PKACC and PKNB (10_state.md R25). -/
def packerOf (s : State) : List Byte × Byte × BitVec 3 := (s.pkbuf, s.pkacc, s.pknb)

/-- The packer after a command is that of `s`. -/
def KeepsPacker (s : State) (r : Result) : Prop := ∀ t, r = .next t → packerOf t = packerOf s

theorem packerStream_congr {s t : State} (h : packerOf t = packerOf s) : packerStream t = packerStream s := by
  obtain ⟨hbuf, hacc, hnb⟩ : t.pkbuf = s.pkbuf ∧ t.pkacc = s.pkacc ∧ t.pknb = s.pknb := by
    simpa only [packerOf, Prod.mk.injEq] using h
  rw [packerStream, packerStream, hbuf, hacc, hnb]

section
variable {s : State}

theorem keepsPacker_next {t : State} (h : packerOf t = packerOf s) : KeepsPacker s (.next t) :=
  fun _ ht => next_inj.mp ht ▸ h

theorem keepsPacker_respond {aux val : Nat} {t : State} (h : packerOf t = packerOf s) :
    KeepsPacker s (respond aux val t) := keepsPacker_next h

theorem keepsPacker_raise {e : ErrorKind} : KeepsPacker s (raise e s) := keepsPacker_next rfl

theorem keepsPacker_ite {p : Prop} [Decidable p] {r r' : Result} (h : KeepsPacker s r) (h' : KeepsPacker s r') :
    KeepsPacker s (if p then r else r') := by
  split_ifs
  · exact h
  · exact h'

theorem keepsPacker_withMode {f : ColorMode → Result} (h : ∀ n, KeepsPacker s (f n)) : KeepsPacker s (withMode s f) := by
  rw [withMode]
  cases selectedMode s with
  | none => exact keepsPacker_raise
  | some n => exact h n

theorem keepsPacker_respondEntry (found : Option Nat) : KeepsPacker s (respondEntry found s) := by
  obtain ⟨v, -, hfound⟩ | ⟨-, hnone⟩ := respondEntry_cases found s
  · exact hfound ▸ keepsPacker_respond rfl
  · exact hnone ▸ keepsPacker_raise

end

/-- The commands that rule R25 of 10_state.md lets write the packer. -/
def writesPacker : Instr → Bool
  | .srst | .pkRst | .pkWrite _ _ | .pkAlign => true
  | _ => false

theorem keepsPacker_exec {i : Instr} (hi : writesPacker i = false) (s : State) : KeepsPacker s (exec i s) := by
  cases i with
  | srst | pkRst | pkWrite | pkAlign => cases hi
  | palLdBoot | embClr | embEncW | upRst | upMore | upRew => exact keepsPacker_respond rfl
  | palGet | embGet | pkGet => exact keepsPacker_respondEntry _
  | embPut | embDec | upPut => exact keepsPacker_ite keepsPacker_raise (keepsPacker_respond rfl)
  | csrRd | modeSet | modeByNc | modeByCc | upRead =>
    simp only [exec, execCsrRd, execModeSet, execModeByNc, execModeByCc, execUpRead]
    split
    · exact keepsPacker_raise
    · exact keepsPacker_respond rfl
  | palLdRom | palLdEmb | embEnc => exact keepsPacker_withMode fun _ => keepsPacker_respond rfl
  | palColor => exact keepsPacker_withMode fun _ => keepsPacker_ite keepsPacker_raise (keepsPacker_respond rfl)
  | palExpand =>
    exact keepsPacker_withMode fun _ => keepsPacker_ite (keepsPacker_respond rfl) <|
      keepsPacker_ite keepsPacker_raise <| keepsPacker_ite keepsPacker_raise (keepsPacker_respond rfl)
  | embDecM =>
    rw [exec_embDecM]
    exact keepsPacker_withMode fun _ =>
      keepsPacker_ite (keepsPacker_ite keepsPacker_raise (keepsPacker_respond rfl)) keepsPacker_raise
  | clsIdx r g b => exact exec_clsIdx r g b s ▸ keepsPacker_next rfl
  | ncEnc nc => exact keepsPacker_respond rfl
  | ncDec cnt i0 i1 i2 => exact exec_ncDec cnt i0 i1 i2 s ▸ keepsPacker_next rfl
  | maskVal ref m x y => exact exec_maskVal ref m x y s ▸ keepsPacker_next rfl
  | maskAdd ref m x y idx => exact exec_maskAdd ref m x y idx s ▸ keepsPacker_next rfl
  | maskSub ref m x y idx => exact exec_maskSub ref m x y idx s ▸ keepsPacker_next rfl

/-! ## The commands that write the packer -/

section
variable {s : State}

/-- A write that fits appends its bits, most significant first (R192). -/
theorem packerStream_pkWrite (v : BitVec 32) {w : Nat} (hlow : 1 ≤ w) (hhigh : w ≤ 32)
    (hroom : s.pkbuf.length + completedBytes w s ≤ Config.pkCap) :
    ∃ t, exec (.pkWrite v w) s = .next t ∧ packerStream t = packerStream s ++ valueBits v w :=
  ⟨_, exec_pkWrite_fits v hlow hhigh hroom, packerStream_putBits v w s⟩

theorem packerStream_prefix_pkWrite {v : BitVec 32} {w : Int} {t : State} (ht : exec (.pkWrite v w) s = .next t) :
    packerStream s <+: packerStream t := by
  by_cases hw : w < 1 ∨ 32 < w
  · rw [exec_pkWrite_invalidWidth v hw, next_inj] at ht
    exact ht ▸ List.prefix_rfl
  · obtain ⟨k, rfl⟩ := Int.eq_ofNat_of_zero_le (by omega : 0 ≤ w)
    have hlow : 1 ≤ k := by omega
    have hhigh : k ≤ 32 := by omega
    obtain hroom | hfull := le_or_gt (s.pkbuf.length + completedBytes k s) Config.pkCap
    · obtain ⟨t', ht', happend⟩ := packerStream_pkWrite v hlow hhigh hroom
      obtain rfl := next_inj.mp (ht'.symm.trans ht)
      exact happend ▸ List.prefix_append _ _
    · rw [exec_pkWrite_full v hlow hhigh hfull, next_inj] at ht
      exact ht ▸ List.prefix_rfl

/-- The flush appends zero bits up to the end of the byte (R193). -/
theorem packerStream_prefix_pkAlign {t : State} (ht : exec .pkAlign s = .next t) :
    packerStream s <+: packerStream t := by
  by_cases hnone : s.pknb = 0
  · rw [exec_pkAlign_noPending hnone, next_inj] at ht
    exact ht ▸ List.prefix_rfl
  · obtain hroom | hfull := lt_or_ge s.pkbuf.length Config.pkCap
    · rw [exec_pkAlign_flushes hnone hroom, next_inj] at ht
      have hflushed : packerStream t = s.pkbuf.flatMap (leadingBits · 8) ++ leadingBits s.pkacc 8 :=
        ht ▸ packerStream_flushed s s.pkacc
      rw [hflushed, packerStream_eq, List.prefix_append_right_inj]
      exact leadingBits_prefix s.pkacc s.pknb.isLt.le
    · rw [exec_pkAlign_full hnone hfull, next_inj] at ht
      exact ht ▸ List.prefix_rfl

end

/-- Settles O55: a write puts its bits one after the other behind the stream, PK.ALIGN only lengthens it, and the other
commands keep the packer. -/
theorem packerStreamGrows : Obligations.PackerStreamGrows := by
  refine ⟨packerStream_length, fun _ v _ hlow hhigh hroom => packerStream_pkWrite v hlow hhigh hroom, ?onlyGrows⟩
  case onlyGrows =>
    intro i s t ht hpkRst hsrst
    cases i with
    | pkRst => exact absurd rfl hpkRst
    | srst => exact absurd rfl hsrst
    | pkWrite => exact packerStream_prefix_pkWrite ht
    | pkAlign => exact packerStream_prefix_pkAlign ht
    | _ => exact packerStream_congr (keepsPacker_exec rfl s t ht) ▸ List.prefix_rfl

end Sys2Proof.Machine
end

section
/-! PROOFS. The unpacker's commands (46_bitstream.md R197 to R200): a read is a number built bit by bit, most significant
bit first. -/

namespace Sys2Proof.Machine

/-! ## The bits of a read -/

theorem bitAt_eq_toNat (buf : List Byte) (p : Nat) :
    bitAt buf p = (decide (p < 8 * buf.length) && (buf.getD (p / 8) 0).getLsbD (7 - p % 8)).toNat := by
  rw [bitAt]
  by_cases hp : p < 8 * buf.length
  · rw [if_pos hp, decide_eq_true hp, Bool.true_and]
  · rw [if_neg hp, decide_eq_false hp, Bool.false_and, Bool.toNat_false]

/-- One bit more to read is one digit more, at the least significant end. -/
theorem readBits_succ (buf : List Byte) (cur n : Nat) :
    readBits buf cur (n + 1) = Nat.bit (decide (cur + n < 8 * buf.length)
      && (buf.getD ((cur + n) / 8) 0).getLsbD (7 - (cur + n) % 8)) (readBits buf cur n) := by
  rw [Nat.bit_val, ← bitAt_eq_toNat]
  rfl

/-- Bit `k` of a read, counted from the most significant one, stands `k` positions after the cursor (R198). -/
theorem testBit_readBits (buf : List Byte) (cur : Nat) {n k : Nat} (hk : k < n) :
    (readBits buf cur n).testBit (n - 1 - k) = (decide (cur + k < 8 * buf.length)
      && (buf.getD ((cur + k) / 8) 0).getLsbD (7 - (cur + k) % 8)) := by
  induction n with
  | zero => exact absurd hk (Nat.not_lt_zero k)
  | succ n ih =>
    rw [readBits_succ]
    obtain hlast | hearlier := Nat.eq_or_lt_of_le (Nat.le_of_lt_succ hk)
    · rw [hlast, Nat.add_sub_cancel, Nat.sub_self, Nat.testBit_bit_zero]
    · have hpos : n + 1 - 1 - k = n - 1 - k + 1 := by omega
      rw [hpos, Nat.testBit_bit_succ, ih hearlier]

/-! ## The commands -/

theorem exec_upPut (b : Byte) (s : State) : exec (.upPut b) s = appendUp b s := rfl

theorem exec_upRead_invalidWidth (s : State) {n : Int} (hn : n < 1 ∨ 32 < n) :
    exec (.upRead n) s = .next (s.putRsp (rspWord 4 0 0)) := by
  change execUpRead n s = _
  rw [execUpRead, bitWidth_of_invalid hn]
  rfl

theorem exec_upRead_valid (s : State) {n : Nat} (hlow : 1 ≤ n) (hhigh : n ≤ 32) :
    exec (.upRead n) s = .next ((s.setUpcur (min (s.upcur + n) (8 * s.upbuf.length))).putRsp
      (rspWord 0 0 (readBits s.upbuf s.upcur n))) := by
  change execUpRead n s = _
  rw [execUpRead, bitWidth_natCast hlow hhigh]
  rfl

theorem exec_upMore (s : State) :
    exec .upMore s = .next (s.putRsp (rspWord 0 0 (if s.upcur < 8 * s.upbuf.length then 1 else 0))) := rfl

theorem exec_upRew (s : State) : exec .upRew s = .next ((s.setUpcur 0).putRsp (rspWord 0 0 0)) := rfl

/-! ## The obligations -/

/-- Settles O56: the two cases of the shared append, below and at the capacity. -/
theorem upPutAppends : Obligations.UpPutAppends := by
  refine ⟨?decodes, ?appends⟩
  case decodes =>
    intro w hfits
    have hdec := decode_of_fits (row := rows[29]) (List.getElem_mem (by decide)) hfits
    rwa [← byteOperand_eq]
  case appends =>
    intro s b
    rw [exec_upPut]
    obtain ⟨hroom, happend⟩ | ⟨hfull, happend⟩ := appendUp_cases b s
    · rw [happend, if_pos hroom]
      rfl
    · rw [happend, if_neg (not_lt.mpr hfull)]
      rfl

/-- Settles O57: the number read is `readBits`, which has the bits at the cursor as its digits. -/
theorem upReadNextBits : Obligations.UpReadNextBits := by
  refine ⟨?decodes, ?invalidWidth, ?valid⟩
  case decodes => exact fun w hfits => decode_of_fits (row := rows[30]) (List.getElem_mem (by decide)) hfits
  case invalidWidth => exact fun s _ hn => exec_upRead_invalidWidth s hn
  case valid =>
    exact fun s n hlow hhigh => ⟨readBits s.upbuf s.upcur n, readBits_lt s.upbuf s.upcur n,
      fun _ hk => testBit_readBits s.upbuf s.upcur hk, exec_upRead_valid s hlow hhigh⟩

/-- Settles O58: UP.MORE compares the cursor with the end and writes nothing; UP.REW writes the cursor alone. -/
theorem upMoreTellsAndUpRewRewinds : Obligations.UpMoreTellsAndUpRewRewinds := ⟨rfl, exec_upMore, rfl, exec_upRew⟩

end Sys2Proof.Machine
end

section
/-! PROOFS. The system commands (47_system.md R210, R211): SRST resets the unit and not its ports, and CSR.RD answers
the scalar that the number names. -/

namespace Sys2Proof.Machine

/-- A soft reset is the hardware reset of everything but the two ports (R210; 10_state.md R38). -/
theorem softReset_eq_reset (s : State) : softReset s = { State.reset with cmds := s.cmds, rsps := s.rsps } := rfl

theorem exec_srst (s : State) : exec .srst s = .next ((softReset s).putRsp (rspWord 0 0 0)) := rfl

/-- A number that names a scalar reads it and changes nothing (R211). -/
theorem exec_csrRd_of_scalar {s : State} {n v : Nat} (hscalar : csrValue s n = some v) :
    exec (.csrRd n) s = .next (s.putRsp (rspWord 0 0 v)) := by
  change execCsrRd n s = _
  rw [execCsrRd, hscalar]
  rfl

/-- Settles O17: the state of a soft reset is the reset state with the ports of `s`, to which the response is added. -/
theorem softResetGivesResetState : Obligations.SoftResetGivesResetState := by
  refine ⟨rfl, fun s => ?_⟩
  rw [exec_srst, softReset_eq_reset]
  rfl

/-- Settles O18: the ten named scalars are rows of `csrValue`, and the numbers from 10 on are reserved. -/
theorem csrReadsScalars : Obligations.CsrReadsScalars := by
  refine ⟨?decodes, fun s => ⟨?mode, ?palcnt, ?emblen, ?pklen, ?pknb, ?pkacc, ?uplen, ?upcur, ?pkCap, ?upCap,
    ?reserved⟩⟩
  case decodes => exact fun w hfits => decode_of_fits (row := rows[1]) (List.getElem_mem (by decide)) hfits
  case reserved => exact fun _ hn => exec_csrRd_reserved s hn
  all_goals exact exec_csrRd_of_scalar rfl

end Sys2Proof.Machine
end

section
/-! PROOFS. The two outcomes of a command (60_exceptions.md R221, R222): every command ends in one success, which keeps
the two ports but for its response, or in one error, which keeps the whole state but for its response; so does every step
on a presented word. -/

namespace Sys2Proof.Machine

/-- The outcomes that a command has in the state `s`. -/
inductive Answers (s : State) : Result → Prop
  /-- A success: whatever parts of the state it wrote, the ports are as they were until its response is added. -/
  | success {aux val : Nat} {t : State} (hcmds : t.cmds = s.cmds) (hrsps : t.rsps = s.rsps) :
      Answers s (respond aux val t)
  /-- An error, in the state as it was (R222). -/
  | error (e : ErrorKind) : Answers s (raise e s)

section
variable {s : State}

theorem Answers.ite {p : Prop} [Decidable p] {r r' : Result} (h : Answers s r) (h' : Answers s r') :
    Answers s (if p then r else r') := by
  split_ifs
  · exact h
  · exact h'

theorem Answers.withMode {f : ColorMode → Result} (h : ∀ n, Answers s (f n)) : Answers s (withMode s f) := by
  rw [Machine.withMode]
  cases selectedMode s with
  | none => exact .error _
  | some n => exact h n

theorem answers_respondEntry (found : Option Nat) : Answers s (respondEntry found s) := by
  obtain ⟨v, -, hfound⟩ | ⟨-, hnone⟩ := respondEntry_cases found s
  · exact hfound ▸ .success rfl rfl
  · exact hnone ▸ .error _

theorem answers_checkedRsp (e : ErrorKind) (aux val : Nat → Nat) (operand : Option Nat) :
    Answers s (.next (s.putRsp (checkedRsp e aux val operand))) := by
  cases operand with
  | none => exact .error e
  | some k => exact .success rfl rfl

theorem answers_classifierRsp (c : Rgb) (w : List Rgb) : Answers s (.next (s.putRsp (classifierRsp c w))) := by
  cases w with
  | nil => exact .error .invalidPaletteLength
  | cons q rest => exact .success rfl rfl

theorem answers_ncDecRsp (cnt i0 i1 i2 : Nat) : Answers s (.next (s.putRsp (ncDecRsp cnt i0 i1 i2))) := by
  rw [ncDecRsp]
  split_ifs
  · exact .error .invalidIndexCount
  · exact answers_checkedRsp ..

/-- The bits of a write go to the packer alone, so the ports are kept. -/
theorem answers_respondPacker_putBits (v : BitVec 32) (k : Nat) : Answers s (respondPacker (putBits v k s)) := by
  obtain ⟨buf, acc, nb, hframe⟩ := putBits_frame v k s
  exact hframe ▸ .success rfl rfl

end

/-- Every command ends in one of the two outcomes. -/
theorem answers_exec (i : Instr) (s : State) : Answers s (exec i s) := by
  cases i with
  | srst | palLdBoot | embClr | embEncW | ncEnc | pkRst | upRst | upMore | upRew => exact .success rfl rfl
  | palGet | embGet | pkGet => exact answers_respondEntry _
  | embPut | embDec | upPut => exact .ite (.error _) (.success rfl rfl)
  | pkAlign => exact .ite (.success rfl rfl) (.ite (.error _) (.success rfl rfl))
  | csrRd | modeSet | modeByNc | modeByCc | upRead =>
    simp only [exec, execCsrRd, execModeSet, execModeByNc, execModeByCc, execUpRead]
    split
    · exact .error _
    · exact .success rfl rfl
  | pkWrite v w =>
    simp only [exec, execPkWrite]
    split
    · exact .error _
    · exact .ite (.error _) (answers_respondPacker_putBits v _)
  | palLdRom | palLdEmb | embEnc => exact .withMode fun _ => .success rfl rfl
  | palColor => exact .withMode fun _ => .ite (.error _) (.success rfl rfl)
  | palExpand =>
    exact .withMode fun _ => .ite (.success rfl rfl) <| .ite (.error _) <| .ite (.error _) (.success rfl rfl)
  | embDecM =>
    rw [exec_embDecM]
    exact .withMode fun _ => .ite (.ite (.error _) (.success rfl rfl)) (.error _)
  | clsIdx r g b => exact exec_clsIdx r g b s ▸ answers_classifierRsp _ _
  | ncDec cnt i0 i1 i2 => exact exec_ncDec cnt i0 i1 i2 s ▸ answers_ncDecRsp ..
  | maskVal ref m x y => exact exec_maskVal ref m x y s ▸ answers_checkedRsp ..
  | maskAdd ref m x y idx => exact exec_maskAdd ref m x y idx s ▸ answers_checkedRsp ..
  | maskSub ref m x y idx => exact exec_maskSub ref m x y idx s ▸ answers_checkedRsp ..

/-- A step on a presented word takes the word and ends in one of the two outcomes, also when the word is no command. -/
theorem answers_step {s : State} {w : Word} {rest : List Word} (hcmds : s.cmds = w :: rest) :
    Answers (s.setCmds rest) (step s) := by
  cases hdec : decode w with
  | ok i => exact step_command hcmds hdec ▸ answers_exec i (s.setCmds rest)
  | error _ => exact step_reject hcmds hdec ▸ .error .illegalCommand

/-- Either outcome adds one response, and a response whose err is not 0 is that of an error. -/
theorem Answers.rsps_of_next {s t : State} {r : Result} (h : Answers s r) (hr : r = .next t) :
    ∃ word, t.rsps = s.rsps ++ [word]
      ∧ (rspErr word ≠ 0 → ∃ e : ErrorKind, word = rspWord e.code 0 0 ∧ t = s.putRsp word) := by
  cases h with
  | success _ hrsps =>
    obtain rfl := respond_eq_next.mp hr
    exact ⟨_, by rw [State.putRsp_rsps, hrsps], fun herr => absurd (rspErr_rspWord 0 _ _) herr⟩
  | error e =>
    obtain rfl := raise_eq_next.mp hr
    exact ⟨_, s.putRsp_rsps _, fun _ => ⟨e, rfl, rfl⟩⟩

/-- Settles O11: the step is one of the two outcomes of a command, and only an error answers an err that is not 0. -/
theorem errorsChangeNothing : Obligations.ErrorsChangeNothing := by
  intro s t w rest hcmds hstep
  obtain ⟨r, hrsps, herror⟩ := (answers_step hcmds).rsps_of_next hstep
  refine ⟨r, hrsps, fun herr => ?_⟩
  obtain ⟨e, rfl, hstate⟩ := herror herr
  have hcode : rspErr (rspWord e.code 0 0) ≤ 10 := (rspErr_raise e).trans_le (errorCode_le e)
  exact ⟨hstate, rspAux_rspWord e.code 0 0, rspVal_rspWord e.code 0 0, hcode⟩

end Sys2Proof.Machine
end

section
/-! PROOFS. The decoder and the encoder are inverse to each other (30_encoding.md R71, R74, R77): each operand is read
from the bits that the encoder packs it into, and on a legal word the packing gives back the whole field, for the bits
that no operand takes are reserved. -/

namespace Sys2Proof

open Sys2Proof.Machine

/-! ## Packed fields as numbers (R71) -/

theorem packByte_toNat (b : Byte) : (packByte b).toNat = b.toNat := by
  simp only [packByte, append_toNat, BitVec.ofNat_eq_ofNat, BitVec.toNat_ofNat]
  omega

theorem packColour_toNat (r g b : Byte) : (packColour r g b).toNat = r.toNat * 65536 + g.toNat * 256 + b.toNat := by
  simp only [packColour, append_toNat, BitVec.ofNat_eq_ofNat, BitVec.toNat_ofNat]
  omega

theorem packNc_toNat (nc : BitVec 3) : (packNc nc).toNat = nc.toNat := by
  simp only [packNc, append_toNat, BitVec.ofNat_eq_ofNat, BitVec.toNat_ofNat]
  omega

theorem packIndices_toNat (i0 i1 i2 : Nat) : (packIndices i0 i1 i2).toNat = i0 % 4 * 16 + i1 % 4 * 4 + i2 % 4 := by
  simp only [packIndices, append_toNat, BitVec.ofNat_eq_ofNat, BitVec.toNat_ofNat]
  omega

theorem packRef_toNat (ref : BitVec 3) : (packRef ref).toNat = ref.toNat := by
  simp only [packRef, append_toNat, BitVec.ofNat_eq_ofNat, BitVec.toNat_ofNat]
  omega

theorem packCoords_toNat (x y idx : Nat) :
    (packCoords x y idx).toNat = x % 4096 * 1048576 + y % 4096 * 256 + idx % 256 := by
  simp only [packCoords, append_toNat, BitVec.toNat_ofNat]
  omega

/-- A bit field of a word or of a field as a quotient and a remainder. -/
theorem extractLsb_toNat_eq {n : Nat} (x : BitVec n) (hi lo : Nat) :
    (x.extractLsb hi lo).toNat = x.toNat / 2 ^ lo % 2 ^ (hi - lo + 1) := by
  rw [BitVec.extractLsb_toNat, Nat.shiftRight_eq_div_pow]

/-! ## Operands of an encoded word (R74) -/

section
variable (op f : BitVec 8) (c : BitVec 16) (a : BitVec 32)

theorem fieldA_toNat_cmdWord {v : Nat} (hv : fitsA v = true) :
    (fieldA (cmdWord op f c (BitVec.ofNat 32 v))).toNat = v := by
  rw [fieldA_cmdWord, BitVec.toNat_ofNat]
  exact Nat.mod_eq_of_lt (of_decide_eq_true hv)

theorem fieldF_toNat_cmdWord {n : Nat} (hn : fitsByte n = true) :
    (fieldF (cmdWord op (BitVec.ofNat 8 n) c a)).toNat = n := by
  rw [fieldF_cmdWord, BitVec.toNat_ofNat]
  exact Nat.mod_eq_of_lt (of_decide_eq_true hn)

theorem widthOperand_cmdWord {w : Int} (hw : fitsWidth w = true) :
    widthOperand (cmdWord op (BitVec.ofInt 8 w) c a) = w := by
  obtain ⟨hlow, hhigh⟩ := of_decide_eq_true hw
  rw [widthOperand, fieldF_cmdWord, BitVec.toInt_ofInt]
  exact Int.bmod_eq_of_le (by omega) (by omega)

theorem modulusOperand_cmdWord {m : Int} (hm : fitsModulus m = true) :
    modulusOperand (cmdWord op f (BitVec.ofInt 16 m) a) = m := by
  obtain ⟨hlow, hhigh⟩ := of_decide_eq_true hm
  rw [modulusOperand, fieldC_cmdWord, BitVec.toInt_ofInt]
  exact Int.bmod_eq_of_le (by omega) (by omega)

theorem refOperand_cmdWord (ref : BitVec 3) : refOperand (cmdWord op (packRef ref) c a) = ref := by
  apply BitVec.eq_of_toNat_eq
  rw [refOperand, fieldF_cmdWord, extractLsb_toNat_eq, packRef_toNat]
  omega

theorem byteOperand_packByte (b : Byte) : byteOperand (cmdWord op f c (packByte b)) = b := by
  apply BitVec.eq_of_toNat_eq
  rw [byteOperand, fieldA_cmdWord, extractLsb_toNat_eq, packByte_toNat]
  omega

theorem redOperand_packColour (r g b : Byte) : redOperand (cmdWord op f c (packColour r g b)) = r := by
  apply BitVec.eq_of_toNat_eq
  rw [redOperand, fieldA_cmdWord, extractLsb_toNat_eq, packColour_toNat]
  omega

theorem greenOperand_packColour (r g b : Byte) : greenOperand (cmdWord op f c (packColour r g b)) = g := by
  apply BitVec.eq_of_toNat_eq
  rw [greenOperand, fieldA_cmdWord, extractLsb_toNat_eq, packColour_toNat]
  omega

theorem byteOperand_packColour (r g b : Byte) : byteOperand (cmdWord op f c (packColour r g b)) = b := by
  apply BitVec.eq_of_toNat_eq
  rw [byteOperand, fieldA_cmdWord, extractLsb_toNat_eq, packColour_toNat]
  omega

theorem ncOperand_packNc (nc : BitVec 3) : ncOperand (cmdWord op f c (packNc nc)) = nc := by
  apply BitVec.eq_of_toNat_eq
  rw [ncOperand, fieldA_cmdWord, extractLsb_toNat_eq, packNc_toNat]
  omega

theorem index0Operand_packIndices {i0 : Nat} (i1 i2 : Nat) (h0 : fitsBootIndex i0 = true) :
    index0Operand (cmdWord op f c (packIndices i0 i1 i2)) = i0 := by
  have h0 := of_decide_eq_true h0
  rw [index0Operand, fieldA_cmdWord, extractLsb_toNat_eq, packIndices_toNat]
  omega

theorem index1Operand_packIndices (i0 : Nat) {i1 : Nat} (i2 : Nat) (h1 : fitsBootIndex i1 = true) :
    index1Operand (cmdWord op f c (packIndices i0 i1 i2)) = i1 := by
  have h1 := of_decide_eq_true h1
  rw [index1Operand, fieldA_cmdWord, extractLsb_toNat_eq, packIndices_toNat]
  omega

theorem index2Operand_packIndices (i0 i1 : Nat) {i2 : Nat} (h2 : fitsBootIndex i2 = true) :
    index2Operand (cmdWord op f c (packIndices i0 i1 i2)) = i2 := by
  have h2 := of_decide_eq_true h2
  rw [index2Operand, fieldA_cmdWord, extractLsb_toNat_eq, packIndices_toNat]
  omega

theorem xOperand_packCoords {x : Nat} (y idx : Nat) (hx : fitsCoord x = true) :
    xOperand (cmdWord op f c (packCoords x y idx)) = x := by
  have hx := of_decide_eq_true hx
  rw [xOperand, fieldA_cmdWord, extractLsb_toNat_eq, packCoords_toNat]
  omega

theorem yOperand_packCoords (x : Nat) {y : Nat} (idx : Nat) (hy : fitsCoord y = true) :
    yOperand (cmdWord op f c (packCoords x y idx)) = y := by
  have hy := of_decide_eq_true hy
  rw [yOperand, fieldA_cmdWord, extractLsb_toNat_eq, packCoords_toNat]
  omega

theorem byteOperand_packCoords (x y : Nat) {idx : Nat} (hidx : fitsByte idx = true) :
    (byteOperand (cmdWord op f c (packCoords x y idx))).toNat = idx := by
  have hidx := of_decide_eq_true hidx
  rw [byteOperand, fieldA_cmdWord, extractLsb_toNat_eq, packCoords_toNat]
  omega

/-- The operands of format MI, which two commands share. -/
theorem maskOperands_cmdWord (build : BitVec 3 → Int → Nat → Nat → Nat → Instr) (ref : BitVec 3) {m : Int}
    {x y idx : Nat} (hwf : (fitsModulus m && fitsCoord x && fitsCoord y && fitsByte idx) = true) :
    let w := cmdWord op (packRef ref) (BitVec.ofInt 16 m) (packCoords x y idx)
    build (refOperand w) (modulusOperand w) (xOperand w) (yOperand w) (byteOperand w).toNat
      = build ref m x y idx := by
  simp only [Bool.and_eq_true] at hwf
  obtain ⟨⟨⟨hm, hx⟩, hy⟩, hidx⟩ := hwf
  dsimp only
  rw [refOperand_cmdWord, modulusOperand_cmdWord _ _ _ hm, xOperand_packCoords _ _ _ _ _ hx,
    yOperand_packCoords _ _ _ _ _ hy, byteOperand_packCoords _ _ _ _ _ hidx]

end

/-! ## Decoding an encoded command -/

/-- A command's word decodes to what the row of its opcode reads from it. -/
theorem decode_encode_of_row {i : Instr} {row : Row} (hfits : Laws.TableRow.Statement i) (hmem : row ∈ rows)
    (hop : fieldOp (encode i) = row.op) (hbuild : row.build (encode i) = i) : decode (encode i) = .ok i := by
  obtain ⟨row', hmem', hfits'⟩ := hfits
  obtain rfl := row_unique hmem' hmem ((fieldOp_of_fits hmem' hfits').symm.trans hop)
  rw [decode_of_fits hmem' hfits', hbuild]

/-- Settles O1: a command without operands has one word, and every other reads its operands back from the fields they
were packed into. -/
theorem decodeOfEncode : Obligations.DecodeOfEncode := by
  intro i hwf
  cases i with
  | srst | palLdRom | palLdEmb | palLdBoot | palExpand | embClr | embEnc | embEncW | embDec | embDecM | pkRst | pkAlign
    | upRst | upMore | upRew => rfl
  | csrRd n =>
    exact decode_encode_of_row (row := rows[1]) (Laws.TableRow.csrRd n) (List.getElem_mem (by decide))
      (fieldOp_cmdWord ..) (congrArg Instr.csrRd (fieldF_toNat_cmdWord _ _ _ hwf))
  | modeSet v =>
    exact decode_encode_of_row (row := rows[2]) (Laws.TableRow.modeSet v) (List.getElem_mem (by decide))
      (fieldOp_cmdWord ..) (congrArg Instr.modeSet (fieldA_toNat_cmdWord _ _ _ hwf))
  | modeByNc v =>
    exact decode_encode_of_row (row := rows[3]) (Laws.TableRow.modeByNc v) (List.getElem_mem (by decide))
      (fieldOp_cmdWord ..) (congrArg Instr.modeByNc (fieldA_toNat_cmdWord _ _ _ hwf))
  | modeByCc v =>
    exact decode_encode_of_row (row := rows[4]) (Laws.TableRow.modeByCc v) (List.getElem_mem (by decide))
      (fieldOp_cmdWord ..) (congrArg Instr.modeByCc (fieldA_toNat_cmdWord _ _ _ hwf))
  | palColor k =>
    exact decode_encode_of_row (row := rows[5]) (Laws.TableRow.palColor k) (List.getElem_mem (by decide))
      (fieldOp_cmdWord ..) (congrArg Instr.palColor (fieldA_toNat_cmdWord _ _ _ hwf))
  | palGet k =>
    exact decode_encode_of_row (row := rows[9]) (Laws.TableRow.palGet k) (List.getElem_mem (by decide))
      (fieldOp_cmdWord ..) (congrArg Instr.palGet (fieldA_toNat_cmdWord _ _ _ hwf))
  | embPut b =>
    exact decode_encode_of_row (row := rows[12]) (Laws.TableRow.embPut b) (List.getElem_mem (by decide))
      (fieldOp_cmdWord ..) (congrArg Instr.embPut (byteOperand_packByte ..))
  | embGet k =>
    exact decode_encode_of_row (row := rows[13]) (Laws.TableRow.embGet k) (List.getElem_mem (by decide))
      (fieldOp_cmdWord ..) (congrArg Instr.embGet (fieldA_toNat_cmdWord _ _ _ hwf))
  | clsIdx r g b =>
    refine decode_encode_of_row (row := rows[18]) (Laws.TableRow.clsIdx r g b) (List.getElem_mem (by decide))
      (fieldOp_cmdWord ..) ?_
    change Instr.clsIdx (redOperand (cmdWord ..)) (greenOperand (cmdWord ..)) (byteOperand (cmdWord ..)) = _
    rw [redOperand_packColour, greenOperand_packColour, byteOperand_packColour]
  | ncEnc nc =>
    exact decode_encode_of_row (row := rows[19]) (Laws.TableRow.ncEnc nc) (List.getElem_mem (by decide))
      (fieldOp_cmdWord ..) (congrArg Instr.ncEnc (ncOperand_packNc ..))
  | ncDec cnt i0 i1 i2 =>
    simp only [Instr.wf, Bool.and_eq_true] at hwf
    obtain ⟨⟨⟨hcnt, h0⟩, h1⟩, h2⟩ := hwf
    refine decode_encode_of_row (row := rows[20]) (Laws.TableRow.ncDec cnt i0 i1 i2) (List.getElem_mem (by decide))
      (fieldOp_cmdWord ..) ?_
    change Instr.ncDec (fieldF (cmdWord ..)).toNat (index0Operand (cmdWord ..)) (index1Operand (cmdWord ..))
      (index2Operand (cmdWord ..)) = _
    rw [fieldF_toNat_cmdWord _ _ _ hcnt, index0Operand_packIndices _ _ _ _ _ h0,
      index1Operand_packIndices _ _ _ _ _ h1, index2Operand_packIndices _ _ _ _ _ h2]
  | maskVal ref m x y =>
    simp only [Instr.wf, Bool.and_eq_true] at hwf
    obtain ⟨⟨hm, hx⟩, hy⟩ := hwf
    refine decode_encode_of_row (row := rows[21]) (Laws.TableRow.maskVal ref m x y) (List.getElem_mem (by decide))
      (fieldOp_cmdWord ..) ?_
    change Instr.maskVal (refOperand (cmdWord ..)) (modulusOperand (cmdWord ..)) (xOperand (cmdWord ..))
      (yOperand (cmdWord ..)) = _
    rw [refOperand_cmdWord, modulusOperand_cmdWord _ _ _ hm, xOperand_packCoords _ _ _ _ _ hx,
      yOperand_packCoords _ _ _ _ _ hy]
  | maskAdd ref m x y idx =>
    exact decode_encode_of_row (row := rows[22]) (Laws.TableRow.maskAdd ref m x y idx) (List.getElem_mem (by decide))
      (fieldOp_cmdWord ..) (maskOperands_cmdWord 0x61 Instr.maskAdd ref hwf)
  | maskSub ref m x y idx =>
    exact decode_encode_of_row (row := rows[23]) (Laws.TableRow.maskSub ref m x y idx) (List.getElem_mem (by decide))
      (fieldOp_cmdWord ..) (maskOperands_cmdWord 0x62 Instr.maskSub ref hwf)
  | pkWrite v w =>
    refine decode_encode_of_row (row := rows[25]) (Laws.TableRow.pkWrite v w) (List.getElem_mem (by decide))
      (fieldOp_cmdWord ..) ?_
    change Instr.pkWrite (fieldA (cmdWord ..)) (widthOperand (cmdWord ..)) = _
    rw [fieldA_cmdWord, widthOperand_cmdWord _ _ _ hwf]
  | pkGet k =>
    exact decode_encode_of_row (row := rows[27]) (Laws.TableRow.pkGet k) (List.getElem_mem (by decide))
      (fieldOp_cmdWord ..) (congrArg Instr.pkGet (fieldA_toNat_cmdWord _ _ _ hwf))
  | upPut b =>
    exact decode_encode_of_row (row := rows[29]) (Laws.TableRow.upPut b) (List.getElem_mem (by decide))
      (fieldOp_cmdWord ..) (congrArg Instr.upPut (byteOperand_packByte ..))
  | upRead n =>
    exact decode_encode_of_row (row := rows[30]) (Laws.TableRow.upRead n) (List.getElem_mem (by decide))
      (fieldOp_cmdWord ..) (congrArg Instr.upRead (widthOperand_cmdWord _ _ _ hwf))

/-! ## Packing back the fields of a legal word -/

/-- A field whose bits from `n` on are reserved and zero is a number of `n` bits. -/
theorem toNat_lt_of_and_high {m : Nat} {x : BitVec m} (n : Nat) (h : x &&& (BitVec.allOnes m <<< n) = 0) :
    x.toNat < 2 ^ n := by
  refine Nat.lt_pow_two_of_testBit _ fun k hk => ?_
  have hbit : (x &&& (BitVec.allOnes m <<< n)).getLsbD k = false := by rw [h]; exact BitVec.getLsbD_zero
  rw [BitVec.testBit_toNat]
  by_cases hkm : k < m
  · have hones : k - n < m := by omega
    rwa [BitVec.getLsbD_and, BitVec.getLsbD_shiftLeft, BitVec.getLsbD_allOnes, decide_eq_true hkm,
      decide_eq_true hones, decide_eq_false (not_lt.mpr hk), Bool.not_false, Bool.and_true, Bool.and_true,
      Bool.and_true] at hbit
  · exact BitVec.getLsbD_of_ge x k (not_lt.mp hkm)

theorem ofNat_toNat_self {n : Nat} (x : BitVec n) : BitVec.ofNat n x.toNat = x := by
  rw [BitVec.ofNat_toNat, BitVec.setWidth_eq]

section
variable {w : Word}

theorem packByte_byteOperand (h : fieldA w &&& 0xFFFFFF00 = 0) : packByte (byteOperand w) = fieldA w := by
  have hlt := toNat_lt_of_and_high 8 h
  apply BitVec.eq_of_toNat_eq
  rw [packByte_toNat, byteOperand, extractLsb_toNat_eq]
  omega

theorem packColour_operands (h : fieldA w &&& 0xFF000000 = 0) :
    packColour (redOperand w) (greenOperand w) (byteOperand w) = fieldA w := by
  have hlt := toNat_lt_of_and_high 24 h
  apply BitVec.eq_of_toNat_eq
  rw [packColour_toNat, redOperand, greenOperand, byteOperand, extractLsb_toNat_eq, extractLsb_toNat_eq,
    extractLsb_toNat_eq]
  omega

theorem packNc_ncOperand (h : fieldA w &&& 0xFFFFFFF8 = 0) : packNc (ncOperand w) = fieldA w := by
  have hlt := toNat_lt_of_and_high 3 h
  apply BitVec.eq_of_toNat_eq
  rw [packNc_toNat, ncOperand, extractLsb_toNat_eq]
  omega

theorem packIndices_operands (h : fieldA w &&& 0xFFFFFFC0 = 0) :
    packIndices (index0Operand w) (index1Operand w) (index2Operand w) = fieldA w := by
  have hlt := toNat_lt_of_and_high 6 h
  apply BitVec.eq_of_toNat_eq
  rw [packIndices_toNat, index0Operand, index1Operand, index2Operand, extractLsb_toNat_eq, extractLsb_toNat_eq,
    extractLsb_toNat_eq]
  omega

theorem packRef_refOperand (h : fieldF w &&& 0xF8 = 0) : packRef (refOperand w) = fieldF w := by
  have hlt := toNat_lt_of_and_high 3 h
  apply BitVec.eq_of_toNat_eq
  rw [packRef_toNat, refOperand, extractLsb_toNat_eq]
  omega

/-- Format MI uses every bit of field a. -/
theorem packCoords_operands (w : Word) :
    packCoords (xOperand w) (yOperand w) (byteOperand w).toNat = fieldA w := by
  have hlt := (fieldA w).isLt
  apply BitVec.eq_of_toNat_eq
  rw [packCoords_toNat, xOperand, yOperand, byteOperand, extractLsb_toNat_eq, extractLsb_toNat_eq, extractLsb_toNat_eq]
  omega

/-- In format MV the index field is reserved (R71). -/
theorem packCoords_operands_of_noIndex (h : fieldA w &&& 0xFF = 0) :
    packCoords (xOperand w) (yOperand w) 0 = fieldA w := by
  have hidx : (byteOperand w).toNat = 0 := by
    have hbits : byteOperand w &&& 0xFF = 0 := by
      have hzero := congrArg (BitVec.extractLsb 7 0) h
      rwa [BitVec.extractLsb_and] at hzero
    have hall : byteOperand w &&& 0xFF = byteOperand w := BitVec.and_allOnes
    rw [← hall, hbits]
    rfl
  rw [← hidx, packCoords_operands]

/-! ## The operands that the decoder reads fit their fields -/

theorem fitsA_fieldA (w : Word) : fitsA (fieldA w).toNat = true := decide_eq_true (fieldA w).isLt

theorem fitsByte_toNat (b : BitVec 8) : fitsByte b.toNat = true := decide_eq_true b.isLt

theorem fitsCoord_toNat (x : BitVec 12) : fitsCoord x.toNat = true := decide_eq_true x.isLt

theorem fitsBootIndex_toNat (x : BitVec 2) : fitsBootIndex x.toNat = true := decide_eq_true x.isLt

theorem fitsWidth_widthOperand (w : Word) : fitsWidth (widthOperand w) = true :=
  decide_eq_true ⟨BitVec.le_toInt (fieldF w), Int.le_sub_one_of_lt (BitVec.toInt_lt (x := fieldF w))⟩

theorem fitsModulus_modulusOperand (w : Word) : fitsModulus (modulusOperand w) = true :=
  decide_eq_true ⟨BitVec.le_toInt (fieldC w), Int.le_sub_one_of_lt (BitVec.toInt_lt (x := fieldC w))⟩

end

/-! ## Encoding a decoded word -/

/-- The row's command for a word that fits it is well formed, and the encoder writes that word for it. -/
def Row.Inverts (row : Row) : Prop :=
  ∀ w : Word, w &&& row.mask = row.fixed → (row.build w).wf = true ∧ encode (row.build w) = w

/-- A row is inverted field by field, its reserved bits being zero. -/
theorem Row.inverts_of_fields {row : Row} (mf : BitVec 8) (mc : BitVec 16) (ma : BitVec 32)
    (hmask : row.mask = cmdWord 0xFF mf mc ma) (hfixed : row.fixed = cmdWord row.op 0 0 0)
    (hfields : ∀ w : Word, fieldF w &&& mf = 0 → fieldC w &&& mc = 0 → fieldA w &&& ma = 0 →
      (row.build w).wf = true ∧ encode (row.build w) = cmdWord row.op (fieldF w) (fieldC w) (fieldA w)) :
    row.Inverts := by
  intro w hfits
  rw [← cmdWord_fields w, hmask, hfixed, cmdWord_and, cmdWord_inj] at hfits
  obtain ⟨hop, hf, hc, ha⟩ := hfits
  obtain ⟨hwf, henc⟩ := hfields w hf hc ha
  have hop : fieldOp w = row.op := BitVec.and_allOnes.symm.trans hop
  exact ⟨hwf, by rw [henc, ← hop, cmdWord_fields]⟩

theorem eq_zero_of_and_allOnes {n : Nat} {x : BitVec n} (h : x &&& BitVec.allOnes n = 0) : x = 0 :=
  BitVec.and_allOnes.symm.trans h

/-- Format Z: the row has one word. -/
theorem Row.inverts_of_fullMask {row : Row} (hmask : row.mask = 0xFFFFFFFFFFFFFFFF)
    (hword : (row.build row.fixed).wf = true ∧ encode (row.build row.fixed) = row.fixed) : row.Inverts := by
  intro w hfits
  have hw : w = row.fixed := by
    rw [hmask] at hfits
    exact BitVec.and_allOnes.symm.trans hfits
  rwa [hw]

/-- Format A: the operand is the whole of field a. -/
theorem Row.inverts_formatA {row : Row} (build : Nat → Instr) (hbuild : ∀ w, row.build w = build (fieldA w).toNat)
    (hmask : row.mask = 0xFFFFFFFF00000000) (hfixed : row.fixed = cmdWord row.op 0 0 0)
    (hwf : ∀ v, (build v).wf = fitsA v) (henc : ∀ v, encode (build v) = cmdWord row.op 0 0 (BitVec.ofNat 32 v)) :
    row.Inverts := by
  refine Row.inverts_of_fields 0xFF 0xFFFF 0 (hmask.trans (by decide)) hfixed fun w hf hc _ => ?_
  rw [hbuild, hwf, henc, eq_zero_of_and_allOnes hf, eq_zero_of_and_allOnes hc, ofNat_toNat_self]
  exact ⟨fitsA_fieldA w, rfl⟩

/-- Format B: the operand is the low byte of field a. -/
theorem Row.inverts_formatB {row : Row} (build : Byte → Instr) (hbuild : ∀ w, row.build w = build (byteOperand w))
    (hmask : row.mask = 0xFFFFFFFFFFFFFF00) (hfixed : row.fixed = cmdWord row.op 0 0 0)
    (hwf : ∀ b, (build b).wf = true) (henc : ∀ b, encode (build b) = cmdWord row.op 0 0 (packByte b)) :
    row.Inverts := by
  refine Row.inverts_of_fields 0xFF 0xFFFF 0xFFFFFF00 (hmask.trans (by decide)) hfixed fun w hf hc ha => ?_
  rw [hbuild, henc, eq_zero_of_and_allOnes hf, eq_zero_of_and_allOnes hc, packByte_byteOperand ha]
  exact ⟨hwf _, rfl⟩

/-- Format MI: reference, modulus, coordinates and index. -/
theorem Row.inverts_formatMI {row : Row} (build : BitVec 3 → Int → Nat → Nat → Nat → Instr)
    (hbuild : ∀ w, row.build w
      = build (refOperand w) (modulusOperand w) (xOperand w) (yOperand w) (byteOperand w).toNat)
    (hmask : row.mask = 0xFFF8000000000000) (hfixed : row.fixed = cmdWord row.op 0 0 0)
    (hwf : ∀ ref m x y idx,
      (build ref m x y idx).wf = (fitsModulus m && fitsCoord x && fitsCoord y && fitsByte idx))
    (henc : ∀ ref m x y idx,
      encode (build ref m x y idx) = cmdWord row.op (packRef ref) (BitVec.ofInt 16 m) (packCoords x y idx)) :
    row.Inverts := by
  refine Row.inverts_of_fields 0xF8 0 0 (hmask.trans (by decide)) hfixed fun w hf _ _ => ?_
  rw [hbuild, hwf, henc, packRef_refOperand hf, packCoords_operands, modulusOperand, BitVec.ofInt_toInt,
    ← modulusOperand, fitsModulus_modulusOperand, xOperand, fitsCoord_toNat, yOperand, fitsCoord_toNat, fitsByte_toNat]
  exact ⟨rfl, rfl⟩

theorem csrRd_row_inverts : rows[1].Inverts := by
  refine Row.inverts_of_fields 0 0xFFFF 0xFFFFFFFF (by decide) (by decide) fun w _ hc ha => ?_
  change fitsByte (fieldF w).toNat = true ∧ cmdWord 0x02 (BitVec.ofNat 8 (fieldF w).toNat) 0 0 = _
  rw [eq_zero_of_and_allOnes hc, eq_zero_of_and_allOnes ha, ofNat_toNat_self]
  exact ⟨fitsByte_toNat _, rfl⟩

theorem clsIdx_row_inverts : rows[18].Inverts := by
  refine Row.inverts_of_fields 0xFF 0xFFFF 0xFF000000 (by decide) (by decide) fun w hf hc ha => ?_
  change true = true ∧ cmdWord 0x40 0 0 (packColour (redOperand w) (greenOperand w) (byteOperand w)) = _
  rw [eq_zero_of_and_allOnes hf, eq_zero_of_and_allOnes hc, packColour_operands ha]
  exact ⟨rfl, rfl⟩

theorem ncEnc_row_inverts : rows[19].Inverts := by
  refine Row.inverts_of_fields 0xFF 0xFFFF 0xFFFFFFF8 (by decide) (by decide) fun w hf hc ha => ?_
  change true = true ∧ cmdWord 0x50 0 0 (packNc (ncOperand w)) = _
  rw [eq_zero_of_and_allOnes hf, eq_zero_of_and_allOnes hc, packNc_ncOperand ha]
  exact ⟨rfl, rfl⟩

theorem ncDec_row_inverts : rows[20].Inverts := by
  refine Row.inverts_of_fields 0 0xFFFF 0xFFFFFFC0 (by decide) (by decide) fun w _ hc ha => ?_
  change (fitsByte (fieldF w).toNat && fitsBootIndex (index0Operand w) && fitsBootIndex (index1Operand w)
      && fitsBootIndex (index2Operand w)) = true
    ∧ cmdWord 0x51 (BitVec.ofNat 8 (fieldF w).toNat) 0
      (packIndices (index0Operand w) (index1Operand w) (index2Operand w)) = _
  rw [eq_zero_of_and_allOnes hc, ofNat_toNat_self, packIndices_operands ha, fitsByte_toNat, index0Operand,
    fitsBootIndex_toNat, index1Operand, fitsBootIndex_toNat, index2Operand, fitsBootIndex_toNat]
  exact ⟨rfl, rfl⟩

theorem maskVal_row_inverts : rows[21].Inverts := by
  refine Row.inverts_of_fields 0xF8 0 0xFF (by decide) (by decide) fun w hf _ ha => ?_
  change (fitsModulus (modulusOperand w) && fitsCoord (xOperand w) && fitsCoord (yOperand w)) = true
    ∧ cmdWord 0x60 (packRef (refOperand w)) (BitVec.ofInt 16 (fieldC w).toInt)
      (packCoords (xOperand w) (yOperand w) 0) = _
  rw [packRef_refOperand hf, BitVec.ofInt_toInt, packCoords_operands_of_noIndex ha, fitsModulus_modulusOperand,
    xOperand, fitsCoord_toNat, yOperand, fitsCoord_toNat]
  exact ⟨rfl, rfl⟩

theorem pkWrite_row_inverts : rows[25].Inverts := by
  refine Row.inverts_of_fields 0 0xFFFF 0 (by decide) (by decide) fun w _ hc _ => ?_
  change fitsWidth (widthOperand w) = true ∧ cmdWord 0x71 (BitVec.ofInt 8 (fieldF w).toInt) 0 (fieldA w) = _
  rw [eq_zero_of_and_allOnes hc, BitVec.ofInt_toInt]
  exact ⟨fitsWidth_widthOperand w, rfl⟩

theorem upRead_row_inverts : rows[30].Inverts := by
  refine Row.inverts_of_fields 0 0xFFFF 0xFFFFFFFF (by decide) (by decide) fun w _ hc ha => ?_
  change fitsWidth (widthOperand w) = true ∧ cmdWord 0x7A (BitVec.ofInt 8 (fieldF w).toInt) 0 0 = _
  rw [eq_zero_of_and_allOnes hc, eq_zero_of_and_allOnes ha, BitVec.ofInt_toInt]
  exact ⟨fitsWidth_widthOperand w, rfl⟩

theorem systemRows_invert : ∀ row ∈ systemRows, row.Inverts := by
  simp only [systemRows, List.forall_mem_cons, List.not_mem_nil, IsEmpty.forall_iff, implies_true, and_true]
  exact ⟨Row.inverts_of_fullMask rfl (by decide), csrRd_row_inverts⟩

theorem modeRows_invert : ∀ row ∈ modeRows, row.Inverts := by
  simp only [modeRows, List.forall_mem_cons, List.not_mem_nil, IsEmpty.forall_iff, implies_true, and_true]
  refine ⟨?modeSet, ?modeByNc, ?modeByCc⟩
  case modeSet => exact Row.inverts_formatA .modeSet (fun _ => rfl) rfl (by decide) (fun _ => rfl) (fun _ => rfl)
  case modeByNc => exact Row.inverts_formatA .modeByNc (fun _ => rfl) rfl (by decide) (fun _ => rfl) (fun _ => rfl)
  case modeByCc => exact Row.inverts_formatA .modeByCc (fun _ => rfl) rfl (by decide) (fun _ => rfl) (fun _ => rfl)

theorem paletteRows_invert : ∀ row ∈ paletteRows, row.Inverts := by
  simp only [paletteRows, List.forall_mem_cons, List.not_mem_nil, IsEmpty.forall_iff, implies_true, and_true]
  refine ⟨?palColor, ?palLdRom, ?palLdEmb, ?palLdBoot, ?palGet, ?palExpand⟩
  case palColor => exact Row.inverts_formatA .palColor (fun _ => rfl) rfl (by decide) (fun _ => rfl) (fun _ => rfl)
  case palGet => exact Row.inverts_formatA .palGet (fun _ => rfl) rfl (by decide) (fun _ => rfl) (fun _ => rfl)
  all_goals exact Row.inverts_of_fullMask rfl (by decide)

theorem embeddingRows_invert : ∀ row ∈ embeddingRows, row.Inverts := by
  simp only [embeddingRows, List.forall_mem_cons, List.not_mem_nil, IsEmpty.forall_iff, implies_true, and_true]
  refine ⟨?embClr, ?embPut, ?embGet, ?embEnc, ?embEncW, ?embDec, ?embDecM⟩
  case embPut => exact Row.inverts_formatB .embPut (fun _ => rfl) rfl (by decide) (fun _ => rfl) (fun _ => rfl)
  case embGet => exact Row.inverts_formatA .embGet (fun _ => rfl) rfl (by decide) (fun _ => rfl) (fun _ => rfl)
  all_goals exact Row.inverts_of_fullMask rfl (by decide)

theorem classifierRows_invert : ∀ row ∈ classifierRows, row.Inverts :=
  List.forall_mem_singleton.mpr clsIdx_row_inverts

theorem ncRows_invert : ∀ row ∈ ncRows, row.Inverts := by
  simp only [ncRows, List.forall_mem_cons, List.not_mem_nil, IsEmpty.forall_iff, implies_true, and_true]
  exact ⟨ncEnc_row_inverts, ncDec_row_inverts⟩

theorem maskRows_invert : ∀ row ∈ maskRows, row.Inverts := by
  simp only [maskRows, List.forall_mem_cons, List.not_mem_nil, IsEmpty.forall_iff, implies_true, and_true]
  refine ⟨maskVal_row_inverts, ?maskAdd, ?maskSub⟩
  case maskAdd =>
    exact Row.inverts_formatMI .maskAdd (fun _ => rfl) rfl (by decide) (fun _ _ _ _ _ => rfl) (fun _ _ _ _ _ => rfl)
  case maskSub =>
    exact Row.inverts_formatMI .maskSub (fun _ => rfl) rfl (by decide) (fun _ _ _ _ _ => rfl) (fun _ _ _ _ _ => rfl)

theorem packerRows_invert : ∀ row ∈ packerRows, row.Inverts := by
  simp only [packerRows, List.forall_mem_cons, List.not_mem_nil, IsEmpty.forall_iff, implies_true, and_true]
  refine ⟨?pkRst, pkWrite_row_inverts, ?pkAlign, ?pkGet⟩
  case pkGet => exact Row.inverts_formatA .pkGet (fun _ => rfl) rfl (by decide) (fun _ => rfl) (fun _ => rfl)
  all_goals exact Row.inverts_of_fullMask rfl (by decide)

theorem unpackerRows_invert : ∀ row ∈ unpackerRows, row.Inverts := by
  simp only [unpackerRows, List.forall_mem_cons, List.not_mem_nil, IsEmpty.forall_iff, implies_true, and_true]
  refine ⟨?upRst, ?upPut, upRead_row_inverts, ?upMore, ?upRew⟩
  case upPut => exact Row.inverts_formatB .upPut (fun _ => rfl) rfl (by decide) (fun _ => rfl) (fun _ => rfl)
  all_goals exact Row.inverts_of_fullMask rfl (by decide)

theorem rows_invert : ∀ row ∈ rows, row.Inverts := by
  simp only [rows, List.forall_mem_append]
  exact ⟨⟨⟨⟨⟨⟨⟨⟨systemRows_invert, modeRows_invert⟩, paletteRows_invert⟩, embeddingRows_invert⟩,
    classifierRows_invert⟩, ncRows_invert⟩, maskRows_invert⟩, packerRows_invert⟩, unpackerRows_invert⟩

/-- Settles O2: a legal word fits a row of the opcode map, and every row is inverted by the encoder. -/
theorem encodeOfDecode : Obligations.EncodeOfDecode := by
  intro w i hdec
  obtain ⟨row, hmem, hfits, rfl⟩ := fits_of_decode hdec
  exact rows_invert row hmem w hfits

/-- Settles O4: each word is computed from its command, and decodes to it by the round trip of O1. -/
theorem exampleWords : Obligations.ExampleWords := by
  intro p hp
  have hencodes : p.2.wf = true ∧ encode p.2 = p.1 := by
    revert p
    decide
  obtain ⟨hwf, henc⟩ := hencodes
  exact ⟨henc ▸ decodeOfEncode p.2 hwf, henc⟩

end Sys2Proof
end

section
/-! PROOFS. The effect of a command, said once for all 33: it writes one part of the state, a part that its rule names
(10_state.md R22 to R26), and adds one response; and it does the same with any other ports. What every step keeps, who
writes which part, and the independence of the ports follow from it. -/

namespace Sys2Proof.Machine

open Sys2Proof.Safety

/-! ## The packer's unused bits (10_state.md R25) -/

theorem packed_aligned (s : State) (base : List Byte) (T t : Nat) : PackerAligned (packed s base T t) := by
  have hr : t % 8 < 8 := Nat.mod_lt t (by decide)
  have hpow : (2 : Nat) ^ 8 = 2 ^ (t % 8) * 2 ^ (8 - t % 8) := by rw [← Nat.pow_add, Nat.add_sub_cancel' hr.le]
  have hlt : T % 2 ^ (t % 8) * 2 ^ (8 - t % 8) < 2 ^ 8 := by
    rw [hpow]
    exact Nat.mul_lt_mul_of_pos_right (Nat.mod_lt _ (Nat.two_pow_pos _)) (Nat.two_pow_pos _)
  have hacc : (packed s base T t).pkacc.toNat = T % 2 ^ (t % 8) * 2 ^ (8 - t % 8) :=
    (BitVec.toNat_ofNat _ 8).trans (Nat.mod_eq_of_lt hlt)
  rw [PackerAligned, packed_pknb, hacc, Nat.mul_mod_left]

/-- A write keeps the unused bits zero: it leaves a packer that holds one number. -/
theorem putBits_aligned {s : State} (haligned : PackerAligned s) (v : BitVec 32) (k : Nat) :
    PackerAligned (putBits v k s) := by
  rw [← packed_self haligned, putBits_packed]
  exact packed_aligned ..

/-! ## The parts that a command writes -/

/-- The commands that rule R23 of 10_state.md lets write W. -/
def writesW : Instr → Bool
  | .srst | .palLdRom | .palLdEmb | .palLdBoot | .palExpand | .embDec | .embDecM => true
  | _ => false

/-- The commands that rule R24 of 10_state.md lets write EMB. -/
def writesEmb : Instr → Bool
  | .srst | .embClr | .embPut _ | .embEnc | .embEncW => true
  | _ => false

/-- The states that a command can leave, before its response: one part is written, within what the invariant asks of
that part. -/
inductive Writes : Instr → State → State → Prop
  | nothing {i : Instr} {s : State} : Writes i s s
  | all {s : State} : Writes .srst s (softReset s)
  | mode {s : State} (v : Nat) (n : BitVec 3) : Writes (.modeSet v) s (s.setMode n)
  | w {i : Instr} {s : State} {p : List Rgb} (hi : writesW i = true) (hlen : Inv s → p.length ≤ paletteCap) :
      Writes i s (s.setW p)
  | emb {i : Instr} {s : State} {bytes : List Byte} (hi : writesEmb i = true)
      (hlen : Inv s → bytes.length ≤ embCap) : Writes i s (s.setEmb bytes)
  | packer {i : Instr} {s : State} {buf : List Byte} {acc : Byte} {nb : BitVec 3} (hi : writesPacker i = true)
      (hlen : buf.length ≤ Config.pkCap) (haligned : Inv s → PackerAligned (s.setPacker buf acc nb)) :
      Writes i s (s.setPacker buf acc nb)
  | unpacker {s : State} : Writes .upRst s (clearUnpacker s)
  | upbuf {s : State} {b : Byte} (hroom : s.upbuf.length < Config.upCap) :
      Writes (.upPut b) s (s.setUpbuf (s.upbuf ++ [b]))
  | advance {s : State} (n : Int) (k : Nat) :
      Writes (.upRead n) s (s.setUpcur (min (s.upcur + k) (8 * s.upbuf.length)))
  | rewind {s : State} : Writes .upRew s (s.setUpcur 0)

namespace Writes

variable {i : Instr} {s u : State}

theorem cmds_eq (h : Writes i s u) : u.cmds = s.cmds := by cases h <;> rfl

theorem rsps_eq (h : Writes i s u) : u.rsps = s.rsps := by cases h <;> rfl

theorem mode_writer (h : Writes i s u) (hne : u.mode ≠ s.mode) : i = .srst ∨ ∃ v, i = .modeSet v := by
  cases h with
  | all => exact .inl rfl
  | mode v n => exact .inr ⟨v, rfl⟩
  | _ => exact absurd rfl hne

theorem w_writer (h : Writes i s u) (hne : u.w ≠ s.w) : writesW i = true := by
  cases h with
  | all => rfl
  | w hi _ => exact hi
  | _ => exact absurd rfl hne

theorem emb_writer (h : Writes i s u) (hne : u.emb ≠ s.emb) : writesEmb i = true := by
  cases h with
  | all => rfl
  | emb hi _ => exact hi
  | _ => exact absurd rfl hne

theorem packer_writer (h : Writes i s u) (hne : packerOf u ≠ packerOf s) : writesPacker i = true := by
  cases h with
  | all => rfl
  | packer hi _ _ => exact hi
  | _ => exact absurd rfl hne

theorem upbuf_writer (h : Writes i s u) (hne : u.upbuf ≠ s.upbuf) :
    i = .srst ∨ i = .upRst ∨ ∃ b, i = .upPut b := by
  cases h with
  | all => exact .inl rfl
  | unpacker => exact .inr (.inl rfl)
  | @upbuf _ b _ => exact .inr (.inr ⟨b, rfl⟩)
  | _ => exact absurd rfl hne

theorem upcur_writer (h : Writes i s u) (hne : u.upcur ≠ s.upcur) :
    i = .srst ∨ i = .upRst ∨ (∃ n, i = .upRead n) ∨ i = .upRew := by
  cases h with
  | all => exact .inl rfl
  | unpacker => exact .inr (.inl rfl)
  | advance n k => exact .inr (.inr (.inl ⟨n, rfl⟩))
  | rewind => exact .inr (.inr (.inr rfl))
  | _ => exact absurd rfl hne

/-- Each part is written within what the invariant asks of it. -/
theorem keeps_inv (h : Writes i s u) (hinv : Inv s) : Inv u := by
  have ⟨hmem, hpacker, hcur⟩ := hinv
  cases h with
  | nothing | mode => exact ⟨hmem, hpacker, hcur⟩
  | all => exact ⟨Memory.wf_softReset s, rfl, Nat.le_refl 0⟩
  | w _ hlen => exact ⟨Memory.wf_setW hmem (hlen hinv), hpacker, hcur⟩
  | emb _ hlen => exact ⟨Memory.wf_setEmb hmem (hlen hinv), hpacker, hcur⟩
  | packer _ hlen haligned => exact ⟨Memory.wf_setPacker hmem hlen, haligned hinv, hcur⟩
  | unpacker => exact ⟨Memory.wf_setUpcur (Memory.wf_setUpbuf hmem (Nat.zero_le _)), hpacker, Nat.le_refl 0⟩
  | @upbuf _ b hroom =>
    have hlen : (s.upbuf ++ [b]).length = s.upbuf.length + 1 := List.length_append
    have hle : s.upbuf.length ≤ (s.upbuf ++ [b]).length := hlen ▸ Nat.le_succ _
    exact ⟨Memory.wf_setUpbuf hmem (hlen ▸ hroom), hpacker, hcur.trans (Nat.mul_le_mul_left 8 hle)⟩
  | advance => exact ⟨Memory.wf_setUpcur hmem, hpacker, Nat.min_le_right _ _⟩
  | rewind => exact ⟨Memory.wf_setUpcur hmem, hpacker, Nat.zero_le _⟩

end Writes

/-! ## The effect of a command -/

/-- The state with other ports. -/
def State.withPorts (s : State) (pending answered : List Word) : State :=
  { s with cmds := pending, rsps := answered }

/-- `r` and `r'` are the results of a command in `s`, and in `s` with the ports `pending` and `answered`: it writes the
same part in both and adds the same response. -/
def Effect (i : Instr) (s : State) (pending answered : List Word) (r r' : Result) : Prop :=
  ∃ u word, Writes i s u ∧ r = .next (u.putRsp word) ∧ r' = .next ((u.withPorts pending answered).putRsp word)

namespace Effect

variable {i : Instr} {s : State} {pending answered : List Word}

theorem success {aux val : Nat} {u : State} (h : Writes i s u) :
    Effect i s pending answered (respond aux val u) (respond aux val (u.withPorts pending answered)) :=
  ⟨u, _, h, rfl, rfl⟩

/-- A command that answers and writes nothing. -/
theorem answer {word : Word} : Effect i s pending answered (.next (s.putRsp word))
    (.next ((s.withPorts pending answered).putRsp word)) := ⟨s, word, .nothing, rfl, rfl⟩

theorem error {e : ErrorKind} :
    Effect i s pending answered (raise e s) (raise e (s.withPorts pending answered)) := answer

theorem ite {p : Prop} [Decidable p] {r₁ r₂ r₁' r₂' : Result} (h₁ : p → Effect i s pending answered r₁ r₁')
    (h₂ : ¬ p → Effect i s pending answered r₂ r₂') :
    Effect i s pending answered (if p then r₁ else r₂) (if p then r₁' else r₂') := by
  by_cases hp : p
  · rw [if_pos hp, if_pos hp]
    exact h₁ hp
  · rw [if_neg hp, if_neg hp]
    exact h₂ hp

theorem withMode {f f' : ColorMode → Result} (h : ∀ n, Effect i s pending answered (f n) (f' n)) :
    Effect i s pending answered (withMode s f) (withMode (s.withPorts pending answered) f') := by
  have hmode : selectedMode (s.withPorts pending answered) = selectedMode s := rfl
  rw [Machine.withMode, Machine.withMode, hmode]
  cases selectedMode s with
  | none => exact error
  | some n => exact h n

theorem respondEntry (found : Option Nat) :
    Effect i s pending answered (respondEntry found s)
      (respondEntry found (s.withPorts pending answered)) := by
  cases found with
  | none => exact error
  | some v => exact answer

end Effect

/-- The packer's bits and the ports are apart. -/
theorem putBits_withPorts (v : BitVec 32) (k : Nat) (s : State) (pending answered : List Word) :
    putBits v k (s.withPorts pending answered) = (putBits v k s).withPorts pending answered := by
  induction k generalizing s with
  | zero => rfl
  | succ k ih =>
    have hbit : putBit (v.getLsbD k) (s.withPorts pending answered)
        = (putBit (v.getLsbD k) s).withPorts pending answered := by
      unfold putBit
      by_cases hfills : s.pknb.toNat + 1 = 8
      · rw [if_pos hfills]
        exact if_pos hfills
      · rw [if_neg hfills]
        exact if_neg hfills
    rw [putBits, putBits, hbit, ih]

section
variable {s : State} {pending answered : List Word}

theorem fullPalette_fits (n : ColorMode) : (fullPalette n).length ≤ paletteCap :=
  (fullPalette_length n).trans_le n.colorCount_bounds.2

theorem embeddedCount_le (n : ColorMode) : n.embeddedCount ≤ 64 :=
  n.embeddedCount_eq_min.trans_le (min_le_right _ _)

theorem embPalette_fits (n : ColorMode) : (embPalette n).length ≤ paletteCap :=
  ((embPalette_length n).trans_le (embeddedCount_le n)).trans (by decide)

theorem ser_embPalette_fits (n : ColorMode) : (ser (embPalette n)).length ≤ embCap := by
  have hcount := embeddedCount_le n
  rw [ser_length, embPalette_length, embCap]
  omega

theorem ser_w_fits (hinv : Inv s) : (ser s.w).length ≤ embCap := by
  obtain ⟨hw, -, -, -⟩ := Memory.wf_iff.mp hinv.memory
  rw [paletteCap] at hw
  rw [ser_length, embCap]
  omega

theorem deser_emb_fits (hinv : Inv s) (hwhole : s.emb.length % 3 = 0) : (deser s.emb).length ≤ paletteCap := by
  obtain ⟨-, hemb, -, -⟩ := Memory.wf_iff.mp hinv.memory
  rw [embCap] at hemb
  rw [deser_length hwhole, paletteCap]
  omega

theorem effect_pkWrite (v : BitVec 32) (w : Int) :
    Effect (.pkWrite v w) s pending answered (exec (.pkWrite v w) s)
      (exec (.pkWrite v w) (s.withPorts pending answered)) := by
  simp only [exec, execPkWrite]
  cases bitWidth w with
  | none => exact .error
  | some k =>
    refine .ite (fun _ => .error) fun hroom => ?_
    rw [putBits_withPorts]
    have hlen : (putBits v k s).pkbuf.length ≤ Config.pkCap := putBits_length v k s ▸ not_lt.mp hroom
    have haligned (hinv : Inv s) : PackerAligned (putBits v k s) := putBits_aligned hinv.packer v k
    obtain ⟨buf, acc, nb, hframe⟩ := putBits_frame v k s
    rw [hframe] at hlen haligned ⊢
    exact .success (.packer rfl hlen haligned)

theorem effect_pkAlign :
    Effect .pkAlign s pending answered (exec .pkAlign s) (exec .pkAlign (s.withPorts pending answered)) :=
  .ite (fun _ => .success .nothing) fun _ => .ite (fun _ => .error) fun hroom =>
    .success (.packer rfl (List.length_append.trans_le (not_le.mp hroom)) fun _ => rfl)

theorem effect_embDec {i : Instr} (hi : writesW i = true) :
    Effect i s pending answered (exec .embDec s) (exec .embDec (s.withPorts pending answered)) :=
  .ite (fun _ => .error) fun hwhole => .success (.w hi fun hinv => deser_emb_fits hinv (not_not.mp hwhole))

end

/-- Every command has an effect of this form, whatever the ports hold. -/
theorem effect_exec (i : Instr) (s : State) (pending answered : List Word) :
    Effect i s pending answered (exec i s) (exec i (s.withPorts pending answered)) := by
  cases i with
  | srst => exact .success .all
  | modeSet v =>
    simp only [exec, execModeSet]
    cases modeOfNc v with
    | none => exact .error
    | some n => exact .success (.mode v _)
  | csrRd n =>
    have hscalar : csrValue (s.withPorts pending answered) n = csrValue s n := rfl
    simp only [exec, execCsrRd, hscalar]
    cases csrValue s n with
    | none => exact .error
    | some v => exact .answer
  | modeByNc v =>
    simp only [exec, execModeByNc]
    cases modeOfNc v with
    | none => exact .error
    | some n => exact .answer
  | modeByCc v =>
    simp only [exec, execModeByCc]
    cases modeOfCount v with
    | none => exact .error
    | some n => exact .answer
  | palColor k => exact .withMode fun _ => .ite (fun _ => .error) fun _ => .success .nothing
  | palLdRom => exact .withMode fun n => .success (.w rfl fun _ => fullPalette_fits n)
  | palLdEmb => exact .withMode fun n => .success (.w rfl fun _ => embPalette_fits n)
  | palLdBoot => exact .success (.w rfl fun _ => by decide)
  | palGet | embGet | pkGet => exact .respondEntry _
  | palExpand =>
    exact .withMode fun n => .ite (fun _ => .success .nothing) fun _ => .ite (fun _ => .error) fun _ =>
      .ite (fun _ => .error) fun _ => .success (.w rfl fun _ => fullPalette_fits n)
  | embClr => exact .success (.emb rfl fun _ => Nat.zero_le _)
  | embPut b =>
    exact .ite (fun _ => .error) fun hroom =>
      .success (.emb rfl fun _ => List.length_append.trans_le (not_le.mp hroom))
  | embEnc => exact .withMode fun n => .success (.emb rfl fun _ => ser_embPalette_fits n)
  | embEncW => exact .success (.emb rfl ser_w_fits)
  | embDec => exact effect_embDec rfl
  | embDecM =>
    rw [exec_embDecM, exec_embDecM]
    exact .withMode fun n => .ite (fun _ => effect_embDec rfl) fun _ => .error
  | ncEnc => exact .answer
  | clsIdx | ncDec | maskVal | maskAdd | maskSub =>
    simp only [exec_clsIdx, exec_ncDec, exec_maskVal, exec_maskAdd, exec_maskSub]
    exact .answer
  | pkRst => exact .success (.packer rfl (Nat.zero_le _) fun _ => rfl)
  | pkWrite v w => exact effect_pkWrite v w
  | pkAlign => exact effect_pkAlign
  | upRst => exact .success .unpacker
  | upPut b => exact .ite (fun _ => .error) fun hroom => .success (.upbuf (not_le.mp hroom))
  | upRead n =>
    simp only [exec, execUpRead]
    cases bitWidth n with
    | none => exact .error
    | some k => exact .success (.advance n k)
  | upMore => exact .success .nothing
  | upRew => exact .success .rewind

/-- What a command leaves: the state of one `Writes`, and one response. -/
theorem writes_of_exec {i : Instr} {s t : State} (ht : exec i s = .next t) :
    ∃ u word, Writes i s u ∧ t = u.putRsp word := by
  obtain ⟨u, word, hwrites, hexec, -⟩ := effect_exec i s [] []
  exact ⟨u, word, hwrites, next_inj.mp (ht.symm.trans hexec)⟩

/-! ## The invariant -/

theorem inv_setCmds {s : State} (hinv : Inv s) (ws : List Word) : Inv (s.setCmds ws) :=
  ⟨hinv.memory, hinv.packer, hinv.cursor⟩

theorem inv_putRsp {s : State} (hinv : Inv s) (word : Word) : Inv (s.putRsp word) :=
  ⟨hinv.memory, hinv.packer, hinv.cursor⟩

theorem inv_of_exec {i : Instr} {s t : State} (hinv : Inv s) (ht : exec i s = .next t) : Inv t := by
  obtain ⟨u, word, hwrites, rfl⟩ := writes_of_exec ht
  exact inv_putRsp (hwrites.keeps_inv hinv) word

/-- Settles O12: a step waits, executes a command, or answers a word that is no command. -/
theorem stepKeepsInvariant : Obligations.StepKeepsInvariant := by
  intro s t hinv hstep
  cases hcmds : s.cmds with
  | nil =>
    obtain rfl := next_inj.mp ((step_idle hcmds).symm.trans hstep)
    exact hinv
  | cons c rest =>
    cases hdec : decode c with
    | ok i => exact inv_of_exec (inv_setCmds hinv rest) ((step_command hcmds hdec).symm.trans hstep)
    | error _ =>
      obtain rfl := next_inj.mp ((step_reject hcmds hdec).symm.trans hstep)
      exact inv_putRsp (inv_setCmds hinv rest) _

/-- Settles O13: no buffer holds an entry, and PKACC and UPCUR are 0. -/
theorem resetSatisfiesInvariant : Obligations.ResetSatisfiesInvariant := ⟨Memory.wf_reset, rfl, Nat.le_refl 0⟩

/-- Settles O14: every field of the reset state is written out. -/
theorem resetLeavesEverythingEmpty : Obligations.ResetLeavesEverythingEmpty :=
  ⟨rfl, rfl, rfl, rfl, rfl, rfl, rfl, rfl, rfl, rfl⟩

/-! ## Who writes which part -/

section
variable {i : Instr}

theorem writesW_cases (h : writesW i = true) : i = .srst ∨ i = .palLdRom ∨ i = .palLdEmb ∨ i = .palLdBoot
    ∨ i = .palExpand ∨ i = .embDec ∨ i = .embDecM := by
  cases i with
  | srst | palLdRom | palLdEmb | palLdBoot | palExpand | embDec | embDecM => simp
  | _ => cases h

theorem writesEmb_cases (h : writesEmb i = true) :
    i = .srst ∨ i = .embClr ∨ (∃ b, i = .embPut b) ∨ i = .embEnc ∨ i = .embEncW := by
  cases i with
  | srst | embClr | embPut | embEnc | embEncW => simp
  | _ => cases h

theorem writesPacker_cases (h : writesPacker i = true) :
    i = .srst ∨ i = .pkRst ∨ (∃ v w, i = .pkWrite v w) ∨ i = .pkAlign := by
  cases i with
  | srst | pkRst | pkWrite | pkAlign => simp
  | _ => cases h

end

/-- Settles O15: a part that differs was written, and `Writes` says by which commands. -/
theorem writersOfEachPart : Obligations.WritersOfEachPart := by
  intro i s t ht
  obtain ⟨u, word, hwrites, rfl⟩ := writes_of_exec ht
  refine ⟨hwrites.mode_writer, fun hne => writesW_cases (hwrites.w_writer hne),
    fun hne => writesEmb_cases (hwrites.emb_writer hne), ?packer, hwrites.upbuf_writer, hwrites.upcur_writer,
    hwrites.cmds_eq⟩
  case packer =>
    intro hne
    refine writesPacker_cases (hwrites.packer_writer fun heq => ?_)
    obtain ⟨hbuf, hacc, hnb⟩ : u.pkbuf = s.pkbuf ∧ u.pkacc = s.pkacc ∧ u.pknb = s.pknb := by
      simpa only [packerOf, Prod.mk.injEq] using heq
    exact hne.elim (· hbuf) (Or.elim · (· hacc) (· hnb))

/-! ## The ports -/

/-- Settles O6: both outcomes of a command are next states. -/
theorem everyCommandEnds : Obligations.EveryCommandEnds := by
  intro i s
  obtain ⟨u, word, -, hexec, -⟩ := effect_exec i s [] []
  exact ⟨_, hexec⟩

/-- Settles O10: the effect of a command is the same with any other ports. -/
theorem commandsIgnoreThePorts : Obligations.CommandsIgnoreThePorts := by
  intro i s t pending answered ht
  obtain ⟨u, word, hwrites, hexec, hother⟩ := effect_exec i s pending answered
  obtain rfl := next_inj.mp (hexec.symm.trans ht)
  exact ⟨word, congrArg (· ++ [word]) hwrites.rsps_eq, hother⟩

/-- Settles O5: the two lemmas about the step for these cases. -/
theorem stepRunsDecodedCommand : Obligations.StepRunsDecodedCommand :=
  ⟨fun _ _ _ _ hcmds hdec => step_command hcmds hdec, fun _ hcmds => step_idle hcmds⟩

/-- A step on a presented word takes it and adds one response, and words presented behind the others stay behind. -/
theorem step_of_word {s : State} {w : Word} {rest : List Word} (hcmds : s.cmds = w :: rest) (later : List Word) :
    ∃ t word, step s = .next t ∧ t.cmds = rest ∧ t.rsps = s.rsps ++ [word]
      ∧ step (s.setCmds (s.cmds ++ later)) = .next (t.setCmds (rest ++ later)) := by
  have hcmds' : (s.setCmds (s.cmds ++ later)).cmds = w :: (rest ++ later) := by rw [State.setCmds_cmds, hcmds]; rfl
  cases hdec : decode w with
  | ok i =>
    rw [step_command hcmds hdec, step_command hcmds' hdec]
    obtain ⟨u, word, hwrites, hexec, hother⟩ := effect_exec i (s.setCmds rest) (rest ++ later) s.rsps
    have hrsps : u.rsps = s.rsps := hwrites.rsps_eq
    refine ⟨_, word, hexec, hwrites.cmds_eq, congrArg (· ++ [word]) hrsps, hother.trans ?_⟩
    rw [← hrsps]
    rfl
  | error r =>
    rw [step_reject hcmds hdec, step_reject hcmds' hdec]
    exact ⟨_, _, rfl, rfl, rfl, rfl⟩

/-- Settles O7: a step on a presented word, with nothing further presented. -/
theorem oneResponsePerCommand : Obligations.OneResponsePerCommand := by
  intro s w rest hcmds
  obtain ⟨t, word, hstep, hrest, hrsps, -⟩ := step_of_word hcmds []
  exact ⟨t, word, hstep, hrest, hrsps⟩

/-! ## Runs -/

theorem run_succ_of_step {M : Host.Core} {s t : M.State} (hstep : M.step s = .next t) (k : Nat) :
    M.run (k + 1) s = M.run k t := by
  rw [Host.Core.run, hstep]

/-- Settles O8, by induction on the presented words: each step takes one and answers it. -/
theorem runAnswersEveryCommand : Obligations.RunAnswersEveryCommand := by
  intro s
  generalize hcmds : s.cmds = ws
  induction ws generalizing s with
  | nil => exact ⟨s, [], rfl, hcmds, (List.append_nil _).symm, rfl⟩
  | cons w rest ih =>
    obtain ⟨s', word, hstep, hrest, hrsps, -⟩ := step_of_word hcmds []
    obtain ⟨t, rs, hrun, hnone, hrsps', hlen⟩ := ih s' hrest
    refine ⟨t, word :: rs, (run_succ_of_step (M := core) hstep _).trans hrun, hnone, ?_, congrArg Nat.succ hlen⟩
    rw [hrsps', hrsps, List.append_assoc, List.singleton_append]

/-- Settles O9, by induction on the presented words: each step leaves the further words where they are. -/
theorem laterCommandsDoNotInterfere : Obligations.LaterCommandsDoNotInterfere := by
  intro s t later hrun
  change Host.Core.run core _ (s.setCmds (s.cmds ++ later)) = .next (t.setCmds later)
  generalize hcmds : s.cmds = ws at hrun ⊢
  induction ws generalizing s with
  | nil =>
    obtain rfl := next_inj.mp hrun
    rfl
  | cons w rest ih =>
    obtain ⟨s', word, hstep, hrest, -, hlater⟩ := step_of_word hcmds later
    rw [List.length_cons, run_succ_of_step (M := core) hstep] at hrun
    rw [List.length_cons, ← hcmds, run_succ_of_step (M := core) hlater]
    exact ih s' hrest hrun

end Sys2Proof.Machine
end

section
/-! PROOFS. The lookups of the ColorMode registry (40_mode_registry.md R101 to R103): each ncValue of 1 to 7 and each
colour count belongs to one mode, and the columns of its row are the formulas of the descriptor. -/

namespace Sys2Proof.Machine

open Sys2Proof.Safety

/-! ## Rows of the registry (10_state.md R30, R31) -/

theorem exists_mode_of_ncValue {v : Nat} (hv : 1 ≤ v ∧ v ≤ 7) : ∃ n : ColorMode, n.ncValue = v := by
  obtain ⟨hlow, hhigh⟩ := hv
  interval_cases v
  exacts [⟨.nc1, rfl⟩, ⟨.nc2, rfl⟩, ⟨.nc3, rfl⟩, ⟨.nc4, rfl⟩, ⟨.nc5, rfl⟩, ⟨.nc6, rfl⟩, ⟨.nc7, rfl⟩]

theorem ColorMode.ncValue_pos (n : ColorMode) : 1 ≤ n.ncValue := by
  cases n <;> decide

/-- Mode 0 and the numbers above 7 have no row. -/
theorem modeOfNc_eq_none {v : Nat} (hv : ¬ (1 ≤ v ∧ v ≤ 7)) : modeOfNc v = none := by
  refine List.find?_eq_none.mpr fun n _ hn => hv ?_
  have hvalue : n.ncValue = v := eq_of_beq hn
  exact hvalue ▸ ⟨n.ncValue_pos, n.ncValue_le⟩

theorem ColorMode.colorCount_mem (n : ColorMode) : n.colorCount ∈ [4, 8, 16, 32, 64, 128, 256] := by
  cases n <;> decide

theorem modeOfCount_eq_none {v : Nat} (hv : v ∉ [4, 8, 16, 32, 64, 128, 256]) : modeOfCount v = none := by
  refine List.find?_eq_none.mpr fun n _ hn => hv ?_
  have hcount : n.colorCount = v := eq_of_beq hn
  exact hcount ▸ n.colorCount_mem

theorem ColorMode.colorCount_eq (n : ColorMode) : n.colorCount = 2 ^ (n.ncValue + 1) := by
  cases n <;> rfl

/-- The response of a mode's descriptor, by the formulas of R31. -/
theorem respondDescriptor_eq (n : ColorMode) (s : State) :
    respondDescriptor n s = .next (s.putRsp (rspWord 0 (descriptorAux n.ncValue) (descriptorVal n.ncValue))) := by
  have haux : n.embeddedCount = descriptorAux n.ncValue := by cases n <;> rfl
  have hval : n.descriptor = descriptorVal n.ncValue := by cases n <;> rfl
  rw [← haux, ← hval]
  rfl

/-! ## The commands -/

section
variable {v : Nat} (s : State)

theorem exec_modeSet_ncValue (n : ColorMode) :
    exec (.modeSet n.ncValue) s = respondDescriptor n (s.setMode (BitVec.ofNat 3 n.ncValue)) := by
  change execModeSet n.ncValue s = _
  rw [execModeSet, modeOfNc_ncValue]

theorem exec_modeSet_unsupported (hv : ¬ (1 ≤ v ∧ v ≤ 7)) :
    exec (.modeSet v) s = .next (s.putRsp (rspWord 1 0 0)) := by
  change execModeSet v s = _
  rw [execModeSet, modeOfNc_eq_none hv]
  rfl

theorem exec_modeByNc_unsupported (hv : ¬ (1 ≤ v ∧ v ≤ 7)) :
    exec (.modeByNc v) s = .next (s.putRsp (rspWord 1 0 0)) := by
  change execModeByNc v s = _
  rw [execModeByNc, modeOfNc_eq_none hv]
  rfl

theorem exec_modeByCc_unsupported (hv : v ∉ [4, 8, 16, 32, 64, 128, 256]) :
    exec (.modeByCc v) s = .next (s.putRsp (rspWord 1 0 0)) := by
  change execModeByCc v s = _
  rw [execModeByCc, modeOfCount_eq_none hv]
  rfl

end

/-! ## The obligations -/

/-- Settles O19: an ncValue of 1 to 7 is a mode's, which is selected and described; no other has a row. -/
theorem modeSetSelects : Obligations.ModeSetSelects := by
  refine ⟨?decodes, fun s v => ?_⟩
  case decodes => exact fun w hfits => decode_of_fits (row := rows[2]) (List.getElem_mem (by decide)) hfits
  split_ifs with hv
  · obtain ⟨n, rfl⟩ := exists_mode_of_ncValue hv
    exact (exec_modeSet_ncValue s n).trans (respondDescriptor_eq n _)
  · exact exec_modeSet_unsupported s hv

/-- Settles O20: an ncValue of 1 to 7 is a mode's, which is described; no other has a row. -/
theorem modeByNcLooksUp : Obligations.ModeByNcLooksUp := by
  refine ⟨?decodes, fun s v => ?_⟩
  case decodes => exact fun w hfits => decode_of_fits (row := rows[3]) (List.getElem_mem (by decide)) hfits
  split_ifs with hv
  · obtain ⟨n, rfl⟩ := exists_mode_of_ncValue hv
    exact (exec_modeByNc_ncValue n s).trans (respondDescriptor_eq n s)
  · exact exec_modeByNc_unsupported s hv

/-- Settles O21: 2^(n+1) is the colour count of mode n, and the seven counts are all there are. -/
theorem modeByCcLooksUp : Obligations.ModeByCcLooksUp := by
  refine ⟨?decodes, ?count, fun s _ hv => exec_modeByCc_unsupported s hv⟩
  case decodes => exact fun w hfits => decode_of_fits (row := rows[4]) (List.getElem_mem (by decide)) hfits
  case count =>
    intro s v hlow hhigh
    obtain ⟨n, rfl⟩ := exists_mode_of_ncValue ⟨hlow, hhigh⟩
    rw [← n.colorCount_eq, exec_modeByCc_colorCount, respondDescriptor_eq]

end Sys2Proof.Machine
end

section
/-! PROOFS. The embedded palettes within the full ones (10_state.md R33, R36), and the order of the levels that PAL.EXPAND
restores (41_palette.md R117). -/

namespace Sys2Proof.Machine

/-- The embedded levels stand among the eight levels at the positions EMBPOS (R33). -/
theorem emb4_eq_lvl8 : ∀ k, emb4 k = lvl8 (embPos k) := by decide

/-- An index of the embedded palette is three level numbers of two bits. -/
theorem ofNat_eq_nestedIndex (e : Nat) : BitVec.ofNat 8 e = nestedIndex 2 2 (e / 16) (e / 4 % 4) (e % 4) := by
  rw [nestedIndex]
  congr 1
  omega

theorem romEmb_nc6_eq (e : Nat) : romEmb .nc6 (BitVec.ofNat 8 e)
    = ⟨emb4 (BitVec.ofNat 2 (e / 16)), Config.lvl4 (BitVec.ofNat 2 (e / 4 % 4)),
        Config.lvl4 (BitVec.ofNat 2 (e % 4))⟩ := by
  rw [ofNat_eq_nestedIndex]
  exact rgb_of_nestedIndex emb4 Config.lvl4 Config.lvl4 (e / 16) (by decide) (Nat.mod_lt _ (by decide))
    (Nat.mod_lt _ (by decide))

theorem romEmb_nc7_eq (e : Nat) : romEmb .nc7 (BitVec.ofNat 8 e)
    = ⟨emb4 (BitVec.ofNat 2 (e / 16)), emb4 (BitVec.ofNat 2 (e / 4 % 4)), Config.lvl4 (BitVec.ofNat 2 (e % 4))⟩ := by
  rw [ofNat_eq_nestedIndex]
  exact rgb_of_nestedIndex emb4 emb4 Config.lvl4 (e / 16) (by decide) (Nat.mod_lt _ (by decide))
    (Nat.mod_lt _ (by decide))

theorem romFull_nc6_embedded (p : BitVec 3) (e : Nat) : romFull .nc6 (BitVec.ofNat 8 (16 * p.toNat + e % 16))
    = ⟨lvl8 p, Config.lvl4 (BitVec.ofNat 2 (e / 4 % 4)), Config.lvl4 (BitVec.ofNat 2 (e % 4))⟩ := by
  have hindex : BitVec.ofNat 8 (16 * p.toNat + e % 16) = nestedIndex 2 2 p.toNat (e / 4 % 4) (e % 4) := by
    rw [nestedIndex]
    congr 1
    omega
  rw [hindex]
  have hlevels := rgb_of_nestedIndex (gi := e / 4 % 4) (bi := e % 4) lvl8 Config.lvl4 Config.lvl4 p.toNat (by decide)
    (Nat.mod_lt _ (by decide)) (Nat.mod_lt _ (by decide))
  rwa [ofNat_toNat_self] at hlevels

theorem romFull_nc7_embedded (p q : BitVec 3) (e : Nat) :
    romFull .nc7 (BitVec.ofNat 8 (32 * p.toNat + 4 * q.toNat + e % 4))
      = ⟨lvl8 p, lvl8 q, Config.lvl4 (BitVec.ofNat 2 (e % 4))⟩ := by
  have hindex : BitVec.ofNat 8 (32 * p.toNat + 4 * q.toNat + e % 4) = nestedIndex 3 2 p.toNat q.toNat (e % 4) := by
    rw [nestedIndex]
    congr 1
    omega
  rw [hindex]
  have hlevels := rgb_of_nestedIndex (bi := e % 4) lvl8 lvl8 Config.lvl4 p.toNat (by decide) q.isLt
    (Nat.mod_lt _ (by decide))
  rwa [ofNat_toNat_self, ofNat_toNat_self] at hlevels

/-- Settles O24: both palettes are read through the level numbers of the index, and EMBPOS carries the embedded levels to
the full ones. -/
theorem embeddedPaletteIsSubset : Obligations.EmbeddedPaletteIsSubset := by
  refine ⟨⟨rfl, rfl, rfl, rfl, emb4_eq_lvl8⟩, fun e _ => ⟨?nc6, ?nc7⟩⟩
  case nc6 => rw [romEmb_nc6_eq, romFull_nc6_embedded, emb4_eq_lvl8]
  case nc7 => rw [romEmb_nc7_eq, romFull_nc7_embedded, emb4_eq_lvl8, emb4_eq_lvl8]

/-- Settles O25: the six channels are closed lists of levels of the ROM, which are evaluated. -/
theorem levelsExpandInOrder : Obligations.LevelsExpandInOrder := ⟨rfl, rfl, rfl, rfl, rfl, rfl⟩

end Sys2Proof.Machine
end

section
/-! PROOFS. Sequences of commands that all succeed, and the round trips of the serializer (44_embedding.md R158;
41_palette.md R118): `ser` and `deser` are inverse to each other on whole colours. -/

namespace Sys2Proof.Machine

open Sys2Proof.Safety

/-! ## Runs without an error -/

theorem noErrors_nil : NoErrors [] := fun _ hmem => absurd hmem List.not_mem_nil

theorem noErrors_cons_success {aux val : Nat} {rs : List Word} (h : NoErrors rs) :
    NoErrors (rspWord 0 aux val :: rs) := List.forall_mem_cons.mpr ⟨rspErr_rspWord 0 aux val, h⟩

theorem noErrors_append {rs rs' : List Word} (h : NoErrors rs) (h' : NoErrors rs') : NoErrors (rs ++ rs') :=
  List.forall_mem_append.mpr ⟨h, h'⟩

/-- The commands take `s` to `t`, and each adds one response of `rs`, all of them successes. -/
structure Succeeds (is : List Instr) (s t : State) (rs : List Word) : Prop where
  run : runInstrs is s = .next t
  rsps : t.rsps = s.rsps ++ rs
  length : rs.length = is.length
  noErrors : NoErrors rs

theorem Succeeds.nil (s : State) : Succeeds [] s s [] :=
  ⟨rfl, (List.append_nil _).symm, rfl, noErrors_nil⟩

theorem runInstrs_cons {i : Instr} {s t : State} (hexec : exec i s = .next t) (is : List Instr) :
    runInstrs (i :: is) s = runInstrs is t := by
  rw [runInstrs, hexec]

/-- A success in front of a run. -/
theorem Succeeds.cons {i : Instr} {is : List Instr} {s u t : State} {aux val : Nat} {rs : List Word}
    (hexec : exec i s = .next (u.putRsp (rspWord 0 aux val))) (hports : u.rsps = s.rsps)
    (h : Succeeds is (u.putRsp (rspWord 0 aux val)) t rs) : Succeeds (i :: is) s t (rspWord 0 aux val :: rs) where
  run := (runInstrs_cons hexec is).trans h.run
  rsps := by rw [h.rsps, State.putRsp_rsps, hports, List.append_assoc, List.singleton_append]
  length := congrArg Nat.succ h.length
  noErrors := noErrors_cons_success h.noErrors

theorem Succeeds.append {is is' : List Instr} {s u t : State} {rs rs' : List Word} (h : Succeeds is s u rs)
    (h' : Succeeds is' u t rs') : Succeeds (is ++ is') s t (rs ++ rs') where
  run := by
    obtain ⟨hrun, -, -, -⟩ := h
    induction is generalizing s with
    | nil =>
      obtain rfl := next_inj.mp hrun
      exact h'.run
    | cons i is ih =>
      rw [List.cons_append, runInstrs]
      rw [runInstrs] at hrun
      cases hexec : exec i s with
      | next v => rw [hexec] at hrun; exact ih hrun
      | fault r => rw [hexec] at hrun; cases hrun
      | refused r => rw [hexec] at hrun; cases hrun
  rsps := by rw [h'.rsps, h.rsps, List.append_assoc]
  length := by rw [List.length_append, h.length, h'.length, List.length_append]
  noErrors := noErrors_append h.noErrors h'.noErrors

/-! ## The serializer -/

theorem deser_ser : ∀ p : List Rgb, deser (ser p) = p
  | [] => rfl
  | c :: rest => congrArg (c :: ·) (deser_ser rest)

theorem ser_deser : ∀ {y : List Byte}, y.length % 3 = 0 → ser (deser y) = y
  | [], _ => rfl
  | [_], hlen | [_, _], hlen => nomatch hlen
  | r :: g :: b :: rest, hlen =>
    have hrest : rest.length % 3 = 0 := (Nat.add_mod_right rest.length 3).symm.trans hlen
    congrArg (r :: g :: b :: ·) (ser_deser hrest)

section
variable {s : State} {n : ColorMode}

/-- EMB.DEC on a serialised palette loads that palette. -/
theorem exec_embDec_of_ser {p : List Rgb} (hemb : s.emb = ser p) :
    exec .embDec s = .next ((s.setW p).putRsp (rspWord 0 0 p.length)) := by
  have hlen : s.emb.length = 3 * p.length := hemb ▸ ser_length p
  have hwhole : s.emb.length % 3 = 0 := by omega
  have hcount : s.emb.length / 3 = p.length := by omega
  rw [exec_embDec_of_wholeColours hwhole, hcount, hemb, deser_ser]

theorem exec_embDecM_of_ser (hmode : SelectedIs s n) (hemb : s.emb = ser (embPalette n)) :
    exec .embDecM s = .next ((s.setW (embPalette n)).putRsp (rspWord 0 0 n.embeddedCount)) := by
  have hlen : s.emb.length = 3 * n.embeddedCount := by rw [hemb, ser_length, embPalette_length]
  rw [exec_embDecM, withMode_of_selectedIs _ hmode, decodeChecked_of_length hlen, hemb, deser_ser]

theorem exec_embEnc_of_selectedIs (hmode : SelectedIs s n) :
    exec .embEnc s = .next ((s.setEmb (ser (embPalette n))).putRsp (rspWord 0 0 (3 * n.embeddedCount))) := by
  rw [exec_embEnc, withMode_of_selectedIs _ hmode, storeEmb_ser, embPalette_length]

theorem exec_palLdEmb_of_selectedIs (hmode : SelectedIs s n) :
    exec .palLdEmb s = .next ((s.setW (embPalette n)).putRsp (rspWord 0 0 (embPalette n).length)) := by
  rw [exec_palLdEmb, withMode_of_selectedIs _ hmode, loadPalette_eq]

theorem exec_palExpand_of_standard (hmode : SelectedIs s n) (hinterp : n.interp = true) (hw : s.w = embPalette n) :
    exec .palExpand s = .next ((s.setW (fullPalette n)).putRsp (rspWord 0 0 (fullPalette n).length)) := by
  rw [exec_palExpand_of_selectedIs hmode, expandPalette_of_standard hinterp hw, loadPalette_eq]

/-- Either decoder after EMB.ENC leaves the embedded palette in W. -/
theorem exec_decoder_of_ser {d : Instr} (hd : d ∈ [Instr.embDec, .embDecM]) (hmode : SelectedIs s n)
    (hemb : s.emb = ser (embPalette n)) :
    ∃ val, exec d s = .next ((s.setW (embPalette n)).putRsp (rspWord 0 0 val)) := by
  obtain rfl | rfl : d = .embDec ∨ d = .embDecM := by simpa using hd
  · exact ⟨_, exec_embDec_of_ser hemb⟩
  · exact ⟨_, exec_embDecM_of_ser hmode hemb⟩

end

/-! ## The obligations -/

/-- Settles O32: EMB.DECM loads the palette that EMB.ENC serialised, which is the one that PAL.EXPAND takes. -/
theorem decodePathRebuildsPalette : Obligations.DecodePathRebuildsPalette := by
  intro s n hmode hinterp
  have hrun := Succeeds.cons (exec_embEnc_of_selectedIs hmode) rfl
    (.cons (exec_embDecM_of_ser hmode rfl) rfl
      (.cons (exec_palExpand_of_standard hmode hinterp rfl) rfl (.nil _)))
  exact ⟨_, _, hrun.run, holdsFullPalette_iff.mpr rfl, hrun.rsps, hrun.length, hrun.noErrors⟩

/-- Settles O40: what one command serialises the next one reads back, and the other way round. -/
theorem serializerRoundTrips : Obligations.SerializerRoundTrips := by
  refine ⟨fun s => ?encwDec, fun s n hmode d hd => ?encDec, fun s hwhole => ?decEncw⟩
  case encwDec =>
    have hrun := Succeeds.cons (exec_embEncW s) rfl (.cons (exec_embDec_of_ser (p := s.w) rfl) rfl (.nil _))
    exact ⟨_, _, hrun.run, rfl, hrun.rsps, hrun.length, hrun.noErrors⟩
  case encDec =>
    obtain ⟨val, hdec⟩ := exec_decoder_of_ser (n := n) hd
      (s := (s.setEmb (ser (embPalette n))).putRsp (rspWord 0 0 (3 * n.embeddedCount))) hmode rfl
    have hrun := Succeeds.cons (exec_embEnc_of_selectedIs hmode) rfl (.cons hdec rfl (.nil _))
    exact ⟨_, _, _, hrun.run, holdsEmbPalette_iff.mpr rfl, hrun.rsps, hrun.length, hrun.noErrors,
      exec_palLdEmb_of_selectedIs hmode, rfl⟩
  case decEncw =>
    have hrun := Succeeds.cons (exec_embDec_of_wholeColours hwhole) rfl (.cons (exec_embEncW _) rfl (.nil _))
    exact ⟨_, _, hrun.run, ser_deser hwhole, hrun.rsps, hrun.length, hrun.noErrors⟩

end Sys2Proof.Machine
end

section
/-! PROOFS. Exact matches of the classifier (42_classifier.md R132): distance 0 is equality, and the full palettes have
pairwise different entries because an index is read off its level numbers. -/

namespace Sys2Proof.Machine

/-! ## Distance 0 -/

theorem channelDist_eq_zero {p q : Byte} : channelDist p q = 0 ↔ p = q := by
  rw [← Int.natCast_eq_zero, channelDist_eq_sq, sq_eq_zero_iff, sub_eq_zero, Nat.cast_inj, BitVec.toNat_inj]

theorem colorDist_eq_zero {p q : Rgb} : colorDist p q = 0 ↔ p = q := by
  rw [colorDist, Nat.add_eq_zero_iff, Nat.add_eq_zero_iff, channelDist_eq_zero, channelDist_eq_zero,
    channelDist_eq_zero, and_assoc]
  exact ⟨fun ⟨hr, hg, hb⟩ => by cases p; cases q; cases hr; cases hg; cases hb; rfl, fun h => h ▸ ⟨rfl, rfl, rfl⟩⟩

/-- Over different entries the nearest to an entry is that entry alone. -/
theorem IsNearest.eq_of_nodup {w : List Rgb} {k : Nat} {best : Nat × Nat} (hk : k < w.length) (hnodup : w.Nodup)
    (h : IsNearest w[k] w best) : best = (k, 0) := by
  obtain ⟨hlen, hdist, hall, -⟩ := h
  have hzero : best.2 = 0 :=
    Nat.eq_zero_of_le_zero ((hall _ (List.getElem_mem hk)).trans_eq (colorDist_eq_zero.mpr rfl))
  have hentry : w[k] = w[best.1] := colorDist_eq_zero.mp (hdist.trans hzero)
  exact Prod.ext ((hnodup.getElem_inj_iff).mp hentry).symm hzero

/-! ## Palettes with different entries -/

theorem eq_of_div_of_mod {m i j : Nat} (hdiv : i / m = j / m) (hmod : i % m = j % m) : i = j := by
  rw [← Nat.div_add_mod i m, ← Nat.div_add_mod j m, hdiv, hmod]

theorem mod_eq_of_ofNat_eq {n i j : Nat} (h : BitVec.ofNat n i = BitVec.ofNat n j) : i % 2 ^ n = j % 2 ^ n := by
  simpa only [BitVec.toNat_ofNat] using congrArg BitVec.toNat h

/-- With different levels in each table, indices of the same colour have the same three level numbers. -/
theorem eq_of_rgb_eq {kr kg kb i j : Nat} {R : BitVec kr → Byte} {G : BitVec kg → Byte} {B : BitVec kb → Byte}
    (hR : Function.Injective R) (hG : Function.Injective G) (hB : Function.Injective B) (hwidth : kb + kg + kr ≤ 8)
    (hi : i < 2 ^ (kb + kg + kr)) (hj : j < 2 ^ (kb + kg + kr))
    (h : (⟨R ((BitVec.ofNat 8 i).extractLsb' (kb + kg) kr), G ((BitVec.ofNat 8 i).extractLsb' kb kg),
        B ((BitVec.ofNat 8 i).extractLsb' 0 kb)⟩ : Rgb)
      = ⟨R ((BitVec.ofNat 8 j).extractLsb' (kb + kg) kr), G ((BitVec.ofNat 8 j).extractLsb' kb kg),
        B ((BitVec.ofNat 8 j).extractLsb' 0 kb)⟩) : i = j := by
  have hgreen : kb + kg ≤ 8 := (Nat.le_add_right _ kr).trans hwidth
  have hblue : 0 + kb ≤ 8 := by omega
  obtain ⟨hr, hg, hb⟩ := Rgb.mk.inj h
  have hr := mod_eq_of_ofNat_eq (extractLsb'_ofNat_byte i hwidth ▸ extractLsb'_ofNat_byte j hwidth ▸ hR hr)
  have hg := mod_eq_of_ofNat_eq (extractLsb'_ofNat_byte i hgreen ▸ extractLsb'_ofNat_byte j hgreen ▸ hG hg)
  have hb := mod_eq_of_ofNat_eq (extractLsb'_ofNat_byte i hblue ▸ extractLsb'_ofNat_byte j hblue ▸ hB hb)
  have hfits {k : Nat} (hk : k < 2 ^ (kb + kg + kr)) : k / 2 ^ (kb + kg) < 2 ^ kr :=
    Nat.div_lt_of_lt_mul (Nat.pow_add 2 (kb + kg) kr ▸ hk)
  rw [Nat.mod_eq_of_lt (hfits hi), Nat.mod_eq_of_lt (hfits hj), Nat.pow_add, ← Nat.div_div_eq_div_mul,
    ← Nat.div_div_eq_div_mul] at hr
  rw [pow_zero, Nat.div_one, Nat.div_one] at hb
  exact eq_of_div_of_mod (eq_of_div_of_mod hr hg) hb

theorem lvl8_injective : Function.Injective lvl8 := by
  intro a b
  revert a b
  decide

theorem nodup_fullPalette {n : ColorMode}
    (h : ∀ i < n.colorCount, ∀ j < n.colorCount,
      romFull n (BitVec.ofNat 8 i) = romFull n (BitVec.ofNat 8 j) → i = j) : (fullPalette n).Nodup :=
  List.Nodup.map_on (fun i hi j hj => h i (List.mem_range.mp hi) j (List.mem_range.mp hj)) List.nodup_range

theorem nodup_fullPalette_nc1 (hpal4 : Function.Injective pal4) : (fullPalette .nc1).Nodup := by
  refine nodup_fullPalette fun i hi j hj h => ?_
  have hfield : (BitVec.ofNat 8 i).extractLsb' 0 2 = (BitVec.ofNat 8 j).extractLsb' 0 2 := hpal4 h
  rw [extractLsb'_ofNat_byte i (by decide), extractLsb'_ofNat_byte j (by decide), pow_zero, Nat.div_one,
    Nat.div_one] at hfield
  have hmod : i % 4 = j % 4 := mod_eq_of_ofNat_eq hfield
  exact (Nat.mod_eq_of_lt hi).symm.trans (hmod.trans (Nat.mod_eq_of_lt hj))

theorem nodup_fullPalette_levels (h2 : Function.Injective Config.lvl2) (h4 : Function.Injective Config.lvl4)
    {n : ColorMode} (hn : n ≠ .nc1) : (fullPalette n).Nodup := by
  refine nodup_fullPalette fun i hi j hj h => ?_
  cases n with
  | nc1 => exact absurd rfl hn
  | nc2 => exact eq_of_rgb_eq h2 h2 h2 (by decide) hi hj h
  | nc3 => exact eq_of_rgb_eq h4 h2 h2 (by decide) hi hj h
  | nc4 => exact eq_of_rgb_eq h4 h4 h2 (by decide) hi hj h
  | nc5 => exact eq_of_rgb_eq h4 h4 h4 (by decide) hi hj h
  | nc6 => exact eq_of_rgb_eq lvl8_injective h4 h4 (by decide) hi hj h
  | nc7 => exact eq_of_rgb_eq lvl8_injective lvl8_injective h4 (by decide) hi hj h

/-- Settles O42: the search finds a nearest entry, and among different entries that is the entry itself. -/
theorem classifierExactMatch : Obligations.ClassifierExactMatch := by
  refine ⟨fun s k hk hnodup => ?_, nodup_fullPalette_nc1, fun h2 h4 _ hn => nodup_fullPalette_levels h2 h4 hn⟩
  obtain ⟨best, hnearest, hrsp⟩ := classifierRsp_of_ne_nil s.w[k] (List.ne_nil_of_length_pos (Nat.zero_lt_of_lt hk))
  obtain rfl := hnearest.eq_of_nodup hk hnodup
  rw [exec_clsIdx, hrsp]

end Sys2Proof.Machine
end

section
/-! PROOFS. The round trips of the Nc codec (43_nc_codec.md R143) and of the masking commands (45_masking.md R175), in the
fields of their responses. -/

namespace Sys2Proof.Machine

open Sys2Proof.Safety

/-- A success whose results fit their fields answers them. -/
theorem answer_success (s : State) {aux val : Nat} (haux : aux < 2 ^ 24) (hval : val < 2 ^ 32) :
    answer (.next (s.putRsp (rspWord 0 aux val))) = some (0, aux, val) := by
  rw [answer, State.putRsp_rsps, List.getLast?_concat, Option.map_some, rspErr_rspWord, rspAux_rspWord,
    rspVal_rspWord, Nat.mod_eq_of_lt haux, Nat.mod_eq_of_lt hval, Nat.zero_mod]

/-! ## The Nc codec -/

/-- The command that NC.ENC's answer for `nc` is the operand of: its bits, bit 2 first. -/
def ncDecOf (nc : BitVec 3) : Instr :=
  .ncDec 3 (nc.getLsbD 2).toNat (nc.getLsbD 1).toNat (nc.getLsbD 0).toNat

theorem ncDecOf_wf : ∀ nc, (ncDecOf nc).wf = true := by decide

/-- The three index fields of the answer stand where the command word has its indices. -/
theorem encode_ncDecOf : ∀ nc, encode (ncDecOf nc) = 0x5103000000000000 + BitVec.ofNat 64 (ncIndices nc) := by decide

theorem ncDecRsp_bits : ∀ nc : BitVec 3,
    ncDecRsp 3 (nc.getLsbD 2).toNat (nc.getLsbD 1).toNat (nc.getLsbD 0).toNat = rspWord 0 0 nc.toNat := by decide

/-- Settles O45: the word is that of NC.DEC with the three bits of `nc`, and decodes by the round trip of O1. -/
theorem ncRoundTrip : Obligations.NcRoundTrip := by
  intro s s' nc
  have hnc : nc.toNat < 8 := nc.isLt
  refine ⟨ncIndices nc, ncDecOf nc, ?encodes, ?decodes, ?answers⟩
  case encodes =>
    have hlt : ncIndices nc < 2 ^ 32 := by
      rw [ncIndices_eq_digits]
      omega
    exact answer_success s (by decide) hlt
  case decodes => exact encode_ncDecOf nc ▸ decodeOfEncode _ (ncDecOf_wf nc)
  case answers =>
    rw [ncDecOf, exec_ncDec, ncDecRsp_bits]
    exact answer_success s' (by decide) (hnc.trans (by decide))

/-! ## Masking -/

section
variable {m : Nat} (s : State) (ref : BitVec 3) (x y idx : Nat)

theorem answer_maskAdd (hpos : 1 ≤ m) (hm : m ≤ 32767) :
    answer (exec (.maskAdd ref m x y idx) s) = some (0, maskAt x y ref m, (idx + maskAt x y ref m) % m) := by
  have hk := maskAt_lt x y ref hpos
  have hv : (idx + maskAt x y ref m) % m < m := Nat.mod_lt _ hpos
  have hnat : ¬ (m : Int) ≤ 0 := by omega
  rw [exec_maskAdd, checkedRsp_modulus, if_neg hnat, Int.toNat_natCast]
  exact answer_success s (by omega) (by omega)

theorem answer_maskSub (hpos : 1 ≤ m) (hm : m ≤ 32767) :
    answer (exec (.maskSub ref m x y idx) s)
      = some (0, maskAt x y ref m, (((idx : Int) - maskAt x y ref m) % (m : Int)).toNat) := by
  have hk := maskAt_lt x y ref hpos
  have hv := toNat_emod_lt hpos ((idx : Int) - maskAt x y ref m)
  rw [exec_maskSub_of_pos s ref x y idx hpos]
  exact answer_success s (by omega) (by omega)

end

/-- Subtracting `k` undoes adding it, modulo m. -/
theorem toNat_emod_add_mod_sub {m idx : Nat} (hidx : idx < m) (k : Nat) :
    (((((idx + k) % m : Nat) : Int) - k) % (m : Int)).toNat = idx := by
  have hpos : 1 ≤ m := Nat.one_le_of_lt hidx
  have hback := (toNat_emod_sub_add_mod hpos ((idx + k) % m) k).trans (Nat.mod_mod _ _)
  have hsame := Nat.ModEq.add_right_cancel' k hback
  rwa [Nat.ModEq, Nat.mod_eq_of_lt (toNat_emod_lt hpos _), Nat.mod_eq_of_lt hidx] at hsame

/-- Settles O50: for an index below m the two commands are inverse modulo m, and with m at most 256 both answers are below
256. -/
theorem maskRoundTrip : Obligations.MaskRoundTrip := by
  refine ⟨?inverse, ?bytes, ?notTwice⟩
  case inverse =>
    intro s s' ref m x y idx k v hpos hm hidx _ _
    rw [answer_maskAdd s ref x y idx hpos hm, answer_maskSub s' ref x y v hpos hm,
      answer_maskSub s ref x y idx hpos hm, answer_maskAdd s' ref x y v hpos hm]
    constructor
    · rintro ⟨⟩
      rw [toNat_emod_add_mod_sub hidx]
    · rintro ⟨⟩
      rw [toNat_emod_sub_add_mod hpos, Nat.mod_eq_of_lt hidx]
  case bytes =>
    intro s ref m x y idx hpos hm _
    have hadd : (idx + maskAt x y ref m) % m < m := Nat.mod_lt _ hpos
    have hsub := toNat_emod_lt hpos ((idx : Int) - maskAt x y ref m)
    exact ⟨⟨_, _, by omega, answer_maskAdd s ref x y idx hpos (by omega)⟩,
      ⟨_, _, by omega, answer_maskSub s ref x y idx hpos (by omega)⟩⟩
  case notTwice =>
    exact fun s => ⟨answer_maskAdd s 1 3 0 6 (m := 8) (by decide) (by decide),
      answer_maskAdd s 1 3 0 1 (m := 8) (by decide) (by decide)⟩

end Sys2Proof.Machine
end

section
/-! PROOFS. Cuts of the bit stream (46_bitstream.md R202): the packer takes the bits of a value one after the other, so a
write can be cut anywhere, and a read is a number whose digits can be cut anywhere. -/

namespace Sys2Proof.Machine

open Sys2Proof.Safety

/-! ## Cutting the bits of a value -/

theorem putBits_congr {v v' : BitVec 32} {k : Nat} (h : ∀ j < k, v.getLsbD j = v'.getLsbD j) (s : State) :
    putBits v k s = putBits v' k s := by
  induction k generalizing s with
  | zero => rfl
  | succ k ih => rw [putBits, putBits, h k (Nat.lt_succ_self k), ih fun j hj => h j (Nat.lt_succ_of_lt hj)]

/-- The bits of a value are its high bits, then its low bits. -/
theorem putBits_add (v : BitVec 32) (k j : Nat) (s : State) :
    putBits v (k + j) s = putBits v j (putBits (v >>> j) k s) := by
  induction k generalizing s with
  | zero => rw [Nat.zero_add, putBits]
  | succ k ih => rw [Nat.add_right_comm, putBits, putBits, ih, BitVec.getLsbD_ushiftRight, Nat.add_comm j k]

theorem getLsbD_ofNat_mod (v : BitVec 32) {j k : Nat} (hj : j ≤ 32) (hk : k < j) :
    (BitVec.ofNat 32 (v.toNat % 2 ^ j)).getLsbD k = v.getLsbD k := by
  rw [BitVec.getLsbD_ofNat, Nat.testBit_mod_two_pow, decide_eq_true hk, decide_eq_true (hk.trans_le hj),
    Bool.true_and, Bool.true_and, BitVec.testBit_toNat]

/-- The two parts of a value that R202 writes leave the packer that the value leaves. -/
theorem putBits_parts (v : BitVec 32) (s : State) {w j : Nat} (hjw : j < w) (hw : w ≤ 32) :
    putBits (BitVec.ofNat 32 (v.toNat % 2 ^ j)) j (putBits (v >>> j) (w - j) s) = putBits v w s := by
  have hj : j ≤ 32 := hjw.le.trans hw
  rw [putBits_congr (v' := v) (fun _ hk => getLsbD_ofNat_mod v hj hk), ← putBits_add, Nat.sub_add_cancel hjw.le]

/-! ## Writes up to the ports -/

/-- A response does not change what a write leaves in the unit. -/
theorem sameUnit_putBits_putRsp {v : BitVec 32} {k : Nat} {s u : State} (word : Word) :
    SameUnit (putBits v k (s.putRsp word)) u ↔ SameUnit (putBits v k s) u := by
  have hports : putBits v k (s.putRsp word) = (putBits v k s).withPorts s.cmds (s.rsps ++ [word]) :=
    putBits_withPorts v k s s.cmds (s.rsps ++ [word])
  rw [hports]
  exact Iff.rfl

/-- The capacity that a write asks for, by the write position (10_state.md R25). -/
theorem roomFor_iff (k : Nat) (s : State) :
    s.pkbuf.length + completedBytes k s ≤ Config.pkCap
      ↔ 8 * s.pkbuf.length + s.pknb.toNat + k < 8 * (Config.pkCap + 1) := by
  rw [completedBytes]
  omega

/-- A write that fits, as the state it leaves. -/
theorem exec_pkWrite_eq_next (v : BitVec 32) {w : Nat} {s : State} (hlow : 1 ≤ w) (hhigh : w ≤ 32)
    (hroom : s.pkbuf.length + completedBytes w s ≤ Config.pkCap) :
    ∃ val aux, exec (.pkWrite v w) s = .next ((putBits v w s).putRsp (rspWord 0 aux val)) :=
  ⟨_, _, exec_pkWrite_fits v hlow hhigh hroom⟩

/-- After a part of a write there is room for the rest of it. -/
theorem roomFor_rest {v : BitVec 32} {k j : Nat} {s : State}
    (hroom : s.pkbuf.length + completedBytes (k + j) s ≤ Config.pkCap) :
    (putBits v k s).pkbuf.length + completedBytes j (putBits v k s) ≤ Config.pkCap := by
  rw [roomFor_iff] at hroom ⊢
  rw [putBits_position]
  omega

theorem roomFor_part {k j : Nat} {s : State} (hroom : s.pkbuf.length + completedBytes (k + j) s ≤ Config.pkCap) :
    s.pkbuf.length + completedBytes k s ≤ Config.pkCap := by
  rw [roomFor_iff] at hroom ⊢
  omega

theorem bitWrites_succ (v : BitVec 32) (k : Nat) :
    bitWrites v (k + 1) = .pkWrite (BitVec.ofNat 32 (v.getLsbD k).toNat) 1 :: bitWrites v k := by
  rw [bitWrites, bitWrites, List.range_succ_eq_map, List.map_cons, List.map_map]
  congr 1
  refine List.map_congr_left fun j _ => ?_
  have hbit : k + 1 - 1 - (j + 1) = k - 1 - j := by omega
  change Instr.pkWrite (BitVec.ofNat 32 (v.getLsbD (k + 1 - 1 - (j + 1))).toNat) 1 = _
  rw [hbit]

theorem putBits_singleBit (b : Bool) (s : State) : putBits (BitVec.ofNat 32 b.toNat) 1 s = putBit b s := by
  cases b <;> rfl

theorem runInstrs_bitWrites (v : BitVec 32) {k : Nat} {s : State}
    (hroom : s.pkbuf.length + completedBytes k s ≤ Config.pkCap) :
    ∃ u, runInstrs (bitWrites v k) s = .next u ∧ SameUnit (putBits v k s) u := by
  induction k generalizing s with
  | zero => exact ⟨s, rfl, rfl⟩
  | succ k ih =>
    have hroom : s.pkbuf.length + completedBytes (1 + k) s ≤ Config.pkCap := Nat.add_comm k 1 ▸ hroom
    obtain ⟨val, aux, hexec⟩ := exec_pkWrite_eq_next (BitVec.ofNat 32 (v.getLsbD k).toNat) (w := 1) (le_refl 1)
      (by decide) (roomFor_part hroom)
    have hrest := roomFor_rest (v := BitVec.ofNat 32 (v.getLsbD k).toNat) hroom
    rw [putBits_singleBit] at hexec hrest
    obtain ⟨u, hrun, hsame⟩ := ih (s := (putBit (v.getLsbD k) s).putRsp (rspWord 0 aux val)) hrest
    have hsame : SameUnit (putBits v k (putBit (v.getLsbD k) s)) u := (sameUnit_putBits_putRsp _).mp hsame
    exact ⟨u, bitWrites_succ v k ▸ (runInstrs_cons hexec _).trans hrun, hsame⟩

/-! ## Cutting a read -/

theorem readBits_add (buf : List Byte) (cur k j : Nat) :
    readBits buf cur (k + j) = readBits buf cur k * 2 ^ j + readBits buf (cur + k) j := by
  induction j with
  | zero => rw [Nat.add_zero, readBits, pow_zero, Nat.mul_one, Nat.add_zero]
  | succ j ih =>
    rw [← Nat.add_assoc, readBits, readBits, ih, Nat.add_assoc cur k j]
    ring

/-- A read that stays inside the buffer moves the cursor by its width. -/
theorem exec_upRead_inside {s : State} {n : Nat} (hlow : 1 ≤ n) (hhigh : n ≤ 32)
    (hinside : s.upcur + n ≤ 8 * s.upbuf.length) :
    exec (.upRead n) s
      = .next ((s.setUpcur (s.upcur + n)).putRsp (rspWord 0 0 (readBits s.upbuf s.upcur n))) := by
  rw [exec_upRead_valid s hlow hhigh, Nat.min_eq_left hinside]

/-- Settles O60: writes are cut by `putBits_add`, reads by `readBits_add`. -/
theorem widthIndependence : Obligations.WidthIndependence := by
  refine ⟨?bitByBit, ?twoWrites, ?twoReads⟩
  case bitByBit =>
    intro s v w hlow hhigh hroom
    obtain ⟨u, hrun, hsame⟩ := runInstrs_bitWrites v (s := s) hroom
    exact ⟨_, u, exec_pkWrite_fits v hlow hhigh hroom, hrun, hsame⟩
  case twoWrites =>
    intro s v w j hpos hjw hw hroom
    have hcut : w - j + j = w := Nat.sub_add_cancel hjw.le
    have hroom' : s.pkbuf.length + completedBytes (w - j + j) s ≤ Config.pkCap := hcut.symm ▸ hroom
    obtain ⟨val, aux, hhigh⟩ := exec_pkWrite_eq_next (v >>> j) (w := w - j) (by omega) (by omega) (roomFor_part hroom')
    obtain ⟨val', aux', hlow⟩ := exec_pkWrite_eq_next (BitVec.ofNat 32 (v.toNat % 2 ^ j)) (w := j)
      (s := (putBits (v >>> j) (w - j) s).putRsp (rspWord 0 aux val)) hpos (by omega) (roomFor_rest hroom')
    refine ⟨_, _, exec_pkWrite_fits v (by omega) hw hroom,
      (runInstrs_cons hhigh _).trans (runInstrs_cons hlow _), ?_⟩
    change SameUnit (putBits v w s) _
    rw [← putBits_parts v s hjw hw]
    exact (sameUnit_putBits_putRsp (rspWord 0 aux val)).mp rfl
  case twoReads =>
    intro s n j hpos hjn hn hinside
    have hcut : n - j + j = n := Nat.sub_add_cancel hjn.le
    have hcur : s.upcur + (n - j) + j = s.upcur + n := by rw [Nat.add_assoc, hcut]
    have hhi := exec_upRead_inside (s := s) (n := n - j) (by omega) (by omega) (by omega)
    have hlo := exec_upRead_inside
      (s := (s.setUpcur (s.upcur + (n - j))).putRsp (rspWord 0 0 (readBits s.upbuf s.upcur (n - j)))) (n := j)
      hpos (by omega) (hcur.trans_le hinside)
    refine ⟨_, _, readBits s.upbuf s.upcur (n - j), readBits s.upbuf (s.upcur + (n - j)) j,
      exec_upRead_inside (by omega) hn hinside, (runInstrs_cons hhi _).trans (runInstrs_cons hlo _), ?rsps,
      readBits_lt _ _ _, ?value, ?unit⟩
    case rsps => exact List.append_assoc _ _ _
    case value => rw [← readBits_add, hcut]; rfl
    case unit =>
      change SameUnit (s.setUpcur (s.upcur + n)) ((s.setUpcur (s.upcur + (n - j) + j)).withPorts _ _)
      rw [hcur]
      rfl

end Sys2Proof.Machine
end

section
/-! PROOFS. The round trip of the bit stream (46_bitstream.md R201): the packer's bytes are its stream padded with zeros,
and the unpacker reads the numbers of consecutive pieces of its buffer's bits. -/

namespace Sys2Proof.Machine

open Sys2Proof.Safety

/-! ## The bits of a buffer -/

/-- The bits of a byte buffer, each byte most significant bit first (20_memory.md R52). -/
def bufferBits (buf : List Byte) : List Bool := buf.flatMap (leadingBits · 8)

theorem bufferBits_length (buf : List Byte) : (bufferBits buf).length = 8 * buf.length := by
  rw [bufferBits, List.length_flatMap]
  simp [leadingBits_length, Nat.mul_comm]

/-- Bit position `p` of a buffer is bit 7 - p % 8 of its byte p / 8. -/
theorem bufferBits_getElem? {buf : List Byte} {p : Nat} (hp : p < 8 * buf.length) :
    (bufferBits buf)[p]? = some ((buf.getD (p / 8) 0).getLsbD (7 - p % 8)) := by
  induction buf generalizing p with
  | nil => exact absurd hp (Nat.not_lt_zero p)
  | cons x rest ih =>
    rw [bufferBits, List.flatMap_cons, ← bufferBits]
    by_cases hfirst : p < 8
    · rw [List.getElem?_append_left (by rwa [leadingBits_length]), Nat.div_eq_of_lt hfirst, Nat.mod_eq_of_lt hfirst,
        leadingBits, List.getElem?_map, List.getElem?_range hfirst]
      rfl
    · obtain ⟨q, rfl⟩ := Nat.exists_eq_add_of_le (not_lt.mp hfirst)
      have hq : q < 8 * rest.length := by
        rw [List.length_cons] at hp
        omega
      have hdiv : (8 + q) / 8 = q / 8 + 1 := by omega
      rw [List.getElem?_append_right (by rw [leadingBits_length]; exact Nat.le_add_right 8 q), leadingBits_length,
        Nat.add_sub_cancel_left, ih hq, hdiv, Nat.add_mod_left, List.getD_cons_succ]

/-! ## The number of a list of bits -/

/-- The number whose digits are `bits`, most significant first. -/
def bitsValue (bits : List Bool) : Nat := bits.foldl (fun acc b => Nat.bit b acc) 0

theorem bitsValue_concat (bits : List Bool) (b : Bool) : bitsValue (bits ++ [b]) = Nat.bit b (bitsValue bits) :=
  List.foldl_concat ..

theorem foldl_valueBits (v : BitVec 32) (k acc : Nat) :
    (valueBits v k).foldl (fun acc b => Nat.bit b acc) acc = acc * 2 ^ k + v.toNat % 2 ^ k := by
  induction k generalizing acc with
  | zero => simp [valueBits, Nat.mod_one]
  | succ k ih =>
    rw [valueBits_succ, List.foldl_cons, ih, Nat.bit_val, getLsbD_toNat, Nat.pow_succ, Nat.mod_mul]
    ring

theorem bitsValue_valueBits (v : BitVec 32) (k : Nat) : bitsValue (valueBits v k) = v.toNat % 2 ^ k := by
  rw [bitsValue, foldl_valueBits, Nat.zero_mul, Nat.zero_add]

theorem bitsValue_zeros (z : Nat) : bitsValue (List.replicate z false) = 0 := by
  induction z with
  | zero => rfl
  | succ z ih => rw [List.replicate_succ', bitsValue_concat, ih]; rfl

theorem valueBits_length (v : BitVec 32) (k : Nat) : (valueBits v k).length = k := by
  simp [valueBits]

/-- A read is the number of the piece of the buffer's bits that begins at the cursor (R198). -/
theorem readBits_piece {buf : List Byte} {before piece after : List Bool}
    (hbits : bufferBits buf = before ++ piece ++ after) :
    readBits buf before.length piece.length = bitsValue piece := by
  induction piece using List.reverseRecOn generalizing after with
  | nil => rfl
  | append_singleton piece b ih =>
    have hbits' : bufferBits buf = before ++ piece ++ (b :: after) := by
      rw [hbits, List.append_assoc before, List.append_assoc, List.append_assoc, List.singleton_append]
    have hpos : before.length + piece.length < 8 * buf.length := by
      rw [← bufferBits_length, hbits', List.length_append, List.length_append, List.length_cons]
      omega
    have hbit : (buf.getD ((before.length + piece.length) / 8) 0).getLsbD (7 - (before.length + piece.length) % 8)
        = b := by
      rw [← Option.some_inj, ← bufferBits_getElem? hpos, hbits', ← List.length_append,
        List.getElem?_append_right le_rfl, Nat.sub_self, List.getElem?_cons_zero]
    rw [List.length_append, List.length_singleton, readBits_succ, ih hbits', decide_eq_true hpos, Bool.true_and, hbit,
      bitsValue_concat]

/-! ## Packing -/

/-- The bits of a list of values with their widths. -/
def streamOf (ws : List (BitVec 32 × Nat)) : List Bool := ws.flatMap (fun p => valueBits p.1 p.2)

theorem streamOf_cons (p : BitVec 32 × Nat) (ws : List (BitVec 32 × Nat)) :
    streamOf (p :: ws) = valueBits p.1 p.2 ++ streamOf ws := List.flatMap_cons

theorem streamOf_length (ws : List (BitVec 32 × Nat)) : (streamOf ws).length = (ws.map Prod.snd).sum := by
  rw [streamOf, List.length_flatMap]
  simp only [valueBits_length]

theorem putBits_rsps (v : BitVec 32) (k : Nat) (s : State) : (putBits v k s).rsps = s.rsps := by
  obtain ⟨buf, acc, nb, hframe⟩ := putBits_frame v k s
  rw [hframe, State.setPacker_rsps]

/-- Writes that fit all succeed and append their bits to the stream (R190, R192). -/
theorem succeeds_writes {ws : List (BitVec 32 × Nat)} {s : State} (haligned : PackerAligned s)
    (hwidths : ∀ p ∈ ws, 1 ≤ p.2 ∧ p.2 ≤ 32)
    (hroom : (packerStream s).length + (ws.map Prod.snd).sum ≤ 8 * Config.pkCap) :
    ∃ t rs, Succeeds (ws.map fun p => .pkWrite p.1 p.2) s t rs ∧ PackerAligned t
      ∧ packerStream t = packerStream s ++ streamOf ws := by
  induction ws generalizing s with
  | nil => exact ⟨s, [], .nil s, haligned, (List.append_nil _).symm⟩
  | cons p ws ih =>
    obtain ⟨⟨hlow, hhigh⟩, hwidths⟩ := List.forall_mem_cons.mp hwidths
    rw [List.map_cons, List.sum_cons] at hroom
    have hfits : s.pkbuf.length + completedBytes p.2 s ≤ Config.pkCap := by
      rw [packerStream_length] at hroom
      rw [roomFor_iff]
      omega
    obtain ⟨val, aux, hexec⟩ := exec_pkWrite_eq_next p.1 hlow hhigh hfits
    have hstream : packerStream ((putBits p.1 p.2 s).putRsp (rspWord 0 aux val))
        = packerStream s ++ valueBits p.1 p.2 := packerStream_putBits p.1 p.2 s
    obtain ⟨t, rs, hrun, haligned', hstream'⟩ :=
      ih (s := (putBits p.1 p.2 s).putRsp (rspWord 0 aux val)) (putBits_aligned haligned p.1 p.2) hwidths
        (by rwa [hstream, List.length_append, valueBits_length, Nat.add_assoc])
    refine ⟨t, _, hrun.cons hexec (putBits_rsps p.1 p.2 s), haligned', ?_⟩
    rw [hstream', hstream, streamOf_cons, List.append_assoc]

theorem leadingBits_add (x : Byte) (m k : Nat) :
    leadingBits x (m + k) = leadingBits x m ++ (List.range k).map (fun j => x.getLsbD (7 - (m + j))) := by
  rw [leadingBits, List.range_add, List.map_append, List.map_map, leadingBits]
  rfl

/-- The pending bits of an aligned packer, up to the end of the byte. -/
theorem leadingBits_of_aligned {s : State} (haligned : PackerAligned s) :
    leadingBits s.pkacc 8 = leadingBits s.pkacc s.pknb.toNat ++ List.replicate (8 - s.pknb.toNat) false := by
  have hp : s.pknb.toNat < 8 := s.pknb.isLt
  have hunused {k : Nat} (hk : k < 8 - s.pknb.toNat) : s.pkacc.getLsbD k = false := by
    rw [← BitVec.testBit_toNat, ← Nat.zero_testBit k, ← haligned, Nat.testBit_mod_two_pow, decide_eq_true hk,
      Bool.true_and]
  have hzeros : (List.range (8 - s.pknb.toNat)).map (fun j => s.pkacc.getLsbD (7 - (s.pknb.toNat + j)))
      = List.replicate (8 - s.pknb.toNat) false := by
    refine List.eq_replicate_iff.mpr ⟨by simp, List.forall_mem_map.mpr fun j hj => hunused ?_⟩
    have hlt : j < 8 - s.pknb.toNat := List.mem_range.mp hj
    omega
  calc leadingBits s.pkacc 8 = leadingBits s.pkacc (s.pknb.toNat + (8 - s.pknb.toNat)) := by
        rw [Nat.add_sub_cancel' hp.le]
    _ = _ := by rw [leadingBits_add, hzeros]

/-- PK.ALIGN pads the stream with zeros to whole bytes (R193). -/
theorem succeeds_align {s : State} (haligned : PackerAligned s)
    (hroom : (packerStream s).length ≤ 8 * Config.pkCap) :
    ∃ t rs z, Succeeds [.pkAlign] s t rs ∧ z < 8
      ∧ bufferBits t.pkbuf = packerStream s ++ List.replicate z false := by
  by_cases hnone : s.pknb = 0
  · refine ⟨_, _, 0, .cons (exec_pkAlign_noPending hnone) rfl (.nil _), by decide, ?_⟩
    rw [packerStream_eq, hnone]
    simp [bufferBits, leadingBits]
  · have hpos : 0 < s.pknb.toNat := Nat.pos_of_ne_zero fun hzero => hnone (BitVec.eq_of_toNat_eq hzero)
    have hfits : s.pkbuf.length < Config.pkCap := by
      rw [packerStream_length] at hroom
      omega
    refine ⟨_, _, 8 - s.pknb.toNat, .cons (exec_pkAlign_flushes hnone hfits) rfl (.nil _), by omega, ?_⟩
    rw [packerStream_eq, List.append_assoc, ← leadingBits_of_aligned haligned]
    simp [bufferBits]

/-! ## Unpacking -/

theorem exec_upPut_fits {b : Byte} {s : State} (hroom : s.upbuf.length < Config.upCap) :
    exec (.upPut b) s
      = .next ((s.setUpbuf (s.upbuf ++ [b])).putRsp (rspWord 0 0 (s.upbuf.length + 1))) :=
  if_neg (not_le.mpr hroom)

theorem succeeds_puts {bytes : List Byte} {s : State} (hroom : s.upbuf.length + bytes.length ≤ Config.upCap) :
    ∃ t rs, Succeeds (bytes.map .upPut) s t rs ∧ t.upbuf = s.upbuf ++ bytes ∧ t.upcur = s.upcur := by
  induction bytes generalizing s with
  | nil => exact ⟨s, [], .nil s, (List.append_nil _).symm, rfl⟩
  | cons b bytes ih =>
    rw [List.length_cons] at hroom
    obtain ⟨t, rs, hrun, hbuf, hcur⟩ :=
      ih (s := (s.setUpbuf (s.upbuf ++ [b])).putRsp (rspWord 0 0 (s.upbuf.length + 1)))
        (by simp only [State.putRsp_upbuf, State.setUpbuf_upbuf, List.length_append, List.length_singleton]; omega)
    refine ⟨t, _, hrun.cons (exec_upPut_fits (by omega)) rfl, ?_, hcur⟩
    rw [hbuf, State.putRsp_upbuf, State.setUpbuf_upbuf, List.append_assoc, List.singleton_append]

/-- Reads of the widths of a list of values, at a place where the buffer holds their bits, answer the values reduced to
their widths. -/
theorem succeeds_reads {ws : List (BitVec 32 × Nat)} {s : State} {before after : List Bool}
    (hwidths : ∀ p ∈ ws, 1 ≤ p.2 ∧ p.2 ≤ 32) (hbits : bufferBits s.upbuf = before ++ streamOf ws ++ after)
    (hcur : s.upcur = before.length) :
    ∃ t, Succeeds (ws.map fun p => .upRead p.2) s t (ws.map fun p => rspWord 0 0 (p.1.toNat % 2 ^ p.2))
      ∧ t.upbuf = s.upbuf ∧ t.upcur = (before ++ streamOf ws).length := by
  induction ws generalizing s before with
  | nil => exact ⟨s, .nil s, rfl, by rw [hcur]; simp [streamOf]⟩
  | cons p ws ih =>
    obtain ⟨⟨hlow, hhigh⟩, hwidths⟩ := List.forall_mem_cons.mp hwidths
    rw [streamOf_cons, ← List.append_assoc] at hbits
    have hlen := congrArg List.length hbits
    rw [bufferBits_length, List.length_append, List.length_append, List.length_append, valueBits_length] at hlen
    have hvalue : readBits s.upbuf s.upcur p.2 = p.1.toNat % 2 ^ p.2 := by
      have hpiece := readBits_piece (before := before) (piece := valueBits p.1 p.2) (hbits.trans (List.append_assoc _ _ _))
      rwa [valueBits_length, bitsValue_valueBits, ← hcur] at hpiece
    have hexec := exec_upRead_inside (s := s) hlow hhigh (by omega)
    rw [hvalue] at hexec
    obtain ⟨t, hrun, hbuf, hcur'⟩ :=
      ih (s := (s.setUpcur (s.upcur + p.2)).putRsp (rspWord 0 0 (p.1.toNat % 2 ^ p.2)))
        (before := before ++ valueBits p.1 p.2) hwidths hbits
        (by rw [List.length_append, valueBits_length, ← hcur]; rfl)
    refine ⟨t, hrun.cons hexec rfl, hbuf, ?_⟩
    rw [hcur', streamOf_cons, List.append_assoc]

/-- Settles O59: the stream of the writes, padded with zeros, is the unpacker's buffer, and the reads take it apart at the
same widths. -/
theorem bitStreamRoundTrip : Obligations.BitStreamRoundTrip := by
  intro ws s hbuf hnb hacc hwidths hpkRoom hupRoom
  have hempty : packerStream s = [] := by
    rw [packerStream_eq, hbuf, hnb]
    rfl
  have haligned : PackerAligned s := by
    rw [PackerAligned, hacc]
    exact Nat.zero_mod _
  obtain ⟨s₁, rs₁, hwrites, haligned₁, hstream₁⟩ := succeeds_writes haligned hwidths (by simpa [hempty] using hpkRoom)
  rw [hempty, List.nil_append] at hstream₁
  obtain ⟨t, rs₂, z, halign, hz, hbits⟩ :=
    succeeds_align haligned₁ (by rwa [hstream₁, streamOf_length])
  rw [hstream₁] at hbits
  have hlen : 8 * t.pkbuf.length = (ws.map Prod.snd).sum + z := by
    rw [← bufferBits_length, hbits, List.length_append, streamOf_length, List.length_replicate]
  obtain ⟨v, rs₃, hputs, hupbuf, hupcur⟩ :=
    succeeds_puts (bytes := t.pkbuf) (s := ((t.setUpbuf []).setUpcur 0).putRsp (rspWord 0 0 0))
      (by simp only [State.putRsp_upbuf, State.setUpcur_upbuf, State.setUpbuf_upbuf, List.length_nil]; omega)
  replace hupbuf : v.upbuf = t.pkbuf := hupbuf
  obtain ⟨u, hreads, hubuf, hucur⟩ := succeeds_reads (s := v) (before := []) (after := List.replicate z false) hwidths
    (by rw [hupbuf, hbits, List.nil_append]) hupcur
  rw [List.nil_append] at hucur
  have hpack := hwrites.append halign
  have hfill := hputs.cons (exec_upRst t) rfl
  have hunpack := hfill.append hreads
  have hleft : 8 * u.upbuf.length - u.upcur = z := by
    rw [hubuf, hupbuf, hlen, hucur, streamOf_length, Nat.add_sub_cancel_left]
  refine ⟨t, u, _, _, hpack.run, hpack.rsps, ?packedLength, hpack.noErrors, hunpack.run, ?rsps, ?fillLength,
    hfill.noErrors, ?bounded, hleft.trans_lt hz, ?zeros⟩
  case packedLength => simpa using hpack.length
  case rsps => rw [hunpack.rsps, List.append_assoc]
  case fillLength => simpa using hfill.length
  case bounded =>
    rw [hubuf, hupbuf, hlen, hucur, streamOf_length]
    exact Nat.le_add_right _ z
  case zeros =>
    have hpiece := readBits_piece (buf := u.upbuf) (before := streamOf ws) (piece := List.replicate z false)
      (after := []) (by rw [hubuf, hupbuf, hbits, List.append_nil])
    rwa [List.length_replicate, bitsValue_zeros, ← hucur, ← hleft] at hpiece

end Sys2Proof.Machine
end
